-- ==== Sys2Proof/Word.lean ====
section
/-! DEFINITION. Widths and the value notation of spec/00_scope.md §5 (R11, R12). -/

namespace Sys2Proof

/-- A 32-bit pattern: a register value, a memory word, an instruction word, a pc (R12). -/
abbrev Word := BitVec 32

/-- The unit in which memory is listed (`Host.Cell`); the core itself never sees one (R53). -/
abbrev Byte := BitVec 8

/-- A 6-bit opcode (R70, R104). -/
abbrev Opcode := BitVec 6

/-- A register index, 0 to 31 (R21). -/
abbrev Reg := Fin 32

/-- The signed integer a pattern denotes in two's complement (R12). -/
abbrev sval (v : Word) : Int := v.toInt

/-- The unsigned integer a pattern denotes (R12). -/
abbrev uval (v : Word) : Nat := v.toNat

/-- The unique pattern `v` with `uval v = n mod 2^32` (R12). -/
def wrap32 (n : Int) : Word := BitVec.ofInt 32 n

end Sys2Proof
end

