-- ==== Sys2Proof/Config.lean ====
section
/-! DEFINITION. The implementation parameters of R9 and the names they are keyed by. `Parameters` holds all of them: those
the core's own step reads are its part `Config`, which State carries, and the rest are the host's (log 9). Defaults stand in
Machine/Parameters.lean. -/

namespace Sys2Proof

/-- The 32 mnemonics (R6, R19). -/
inductive Mnemonic where
  | stop
  | add | addi | sub | subi | mul | muli | div | divi
  | and | andi | or | ori | xor | xori
  | shl | shli | shr | shri
  | slt | slti | sle | slei | seq | seqi
  | load | store
  | jmpr | jmpi | braz | branz
  | scall
deriving DecidableEq, Repr

/-- The mnemonic's row in the opcode table, the key under which an opcode map lists it. -/
def Mnemonic.row : Mnemonic → Fin 32
  | .stop => 0
  | .add => 1
  | .addi => 2
  | .sub => 3
  | .subi => 4
  | .mul => 5
  | .muli => 6
  | .div => 7
  | .divi => 8
  | .and => 9
  | .andi => 10
  | .or => 11
  | .ori => 12
  | .xor => 13
  | .xori => 14
  | .shl => 15
  | .shli => 16
  | .shr => 17
  | .shri => 18
  | .slt => 19
  | .slti => 20
  | .sle => 21
  | .slei => 22
  | .seq => 23
  | .seqi => 24
  | .load => 25
  | .store => 26
  | .jmpr => 27
  | .jmpi => 28
  | .braz => 29
  | .branz => 30
  | .scall => 31

/-- The 31 mnemonics other than STOP (R10). -/
def Mnemonic.assigned : List Mnemonic :=
  [.add, .addi, .sub, .subi, .mul, .muli, .div, .divi,
   .and, .andi, .or, .ori, .xor, .xori, .shl, .shli, .shr, .shri,
   .slt, .slti, .sle, .slei, .seq, .seqi,
   .load, .store, .jmpr, .jmpi, .braz, .branz, .scall]

/-- The instruction types (R71), the field-less N among them (90_conflicts.md C4). -/
inductive InstrType where
  | R | I | JR | JI | B | S | N
deriving DecidableEq, Repr

/-- The parameter OPC, with OPC_STOP as its row for STOP (R9, R84): one opcode per row of the opcode table. -/
structure OpcodeMap where
  codes : Vector Opcode 32
deriving DecidableEq, Repr

/-- `OPC m` (R84). -/
def OpcodeMap.code (opc : OpcodeMap) (m : Mnemonic) : Opcode := opc.codes[m.row]

/-- The constraint of R10 on OPC: 31 distinct values, none of them 0 or OPC_STOP. -/
abbrev OpcodeMap.Valid (opc : OpcodeMap) : Prop :=
  ∀ m ∈ Mnemonic.assigned,
    opc.code m ≠ 0 ∧ opc.code m ≠ opc.code .stop ∧
      ∀ m' ∈ Mnemonic.assigned, opc.code m = opc.code m' → m = m'

/-- The two byte orders of the program file (R52). -/
inductive ByteOrder where
  | little | big
deriving DecidableEq, Repr

/-- The parameters of R9 that the core reads: MEM_WORDS, IO_REG, OPC (with OPC_STOP), IMAGE_BYTE_ORDER. -/
structure Config where
  memWords : Nat
  ioReg : Reg
  opc : OpcodeMap
  imageByteOrder : ByteOrder
deriving DecidableEq, Repr

/-- The constraint of R10 (IO_REG is in 0..31 by its type). -/
abbrev Config.Valid (c : Config) : Prop :=
  1 ≤ c.memWords ∧ c.memWords ≤ 2 ^ 31 ∧ c.opc.Valid

/-- All the parameters of R9: those of `Config`, and the host's, which R9 gives no default and no step reads (log 9). -/
structure Parameters extends Config where
  /-- PROMPT_TEXT (R9, R192). -/
  promptText : String
  /-- LABEL_TEXT (R9, R192). -/
  labelText : String
  /-- SEPARATOR_TEXT (R9, R192). -/
  separatorText : String
  /-- EXIT_FAULT (R9, R219). -/
  exitFault : Nat
deriving DecidableEq, Repr

/-- What R9 and R10 ask of the parameters: legal ones for the core, and a nonzero EXIT_FAULT. -/
abbrev Parameters.Valid (p : Parameters) : Prop := p.toConfig.Valid ∧ p.exitFault ≠ 0

end Sys2Proof
end

