-- ==== Sys2Proof/Machine/Parameters.lean ====
section
/-! DEFINITION. The defaults of the parameters (R9): the reference opcode assignment of R84 and the reference
configuration. They stand here, not in Config.lean, because they are values a test could show wrong (D1, D2, D3, D14). -/

namespace Sys2Proof

/-- The reference assignment of R84: STOP 0, then the opcode table's order (log 4). -/
def OpcodeMap.reference : OpcodeMap :=
  { codes := #v[0, 1, 2, 3, 4, 5, 6, 7, 8, 9, 10, 11, 12, 13, 14, 15,
                16, 17, 18, 19, 20, 21, 22, 23, 24, 25, 26, 27, 28, 29, 30, 31] }

/-- The defaults of R9: 2048 words, register 20, the reference assignment, little-endian (log 3). -/
def Config.reference : Config :=
  { memWords := 2048, ioReg := 20, opc := OpcodeMap.reference, imageByteOrder := .little }

/-- All of R9's parameters, at the defaults where R9 gives one and at the given values where it gives none. -/
def Parameters.reference (prompt label separator : String) (exitFault : Nat) : Parameters :=
  { Config.reference with
    promptText := prompt, labelText := label, separatorText := separator, exitFault := exitFault }

end Sys2Proof
end

