-- ==== Sys2Proof/Syntax.lean ====
section
/-! DEFINITION. The instructions, one constructor per row of spec/opcode_table.json, carrying the fields as the decoder
hands them over (R80): register indices, an immediate or address already extended to 32 bits, a 26-bit selector. -/

namespace Sys2Proof

/-- An instruction with its decoded fields (R73 to R80). -/
inductive Instr where
  /-- STOP, and every word with opcode 0 (R103); no field (R79). -/
  | stop
  | add (rd rs1 rs2 : Reg)
  | addi (rd rs : Reg) (imm : Word)
  | sub (rd rs1 rs2 : Reg)
  | subi (rd rs : Reg) (imm : Word)
  | mul (rd rs1 rs2 : Reg)
  | muli (rd rs : Reg) (imm : Word)
  | div (rd rs1 rs2 : Reg)
  | divi (rd rs : Reg) (imm : Word)
  | and (rd rs1 rs2 : Reg)
  | andi (rd rs : Reg) (imm : Word)
  | or (rd rs1 rs2 : Reg)
  | ori (rd rs : Reg) (imm : Word)
  | xor (rd rs1 rs2 : Reg)
  | xori (rd rs : Reg) (imm : Word)
  | shl (rd rs1 rs2 : Reg)
  | shli (rd rs : Reg) (imm : Word)
  | shr (rd rs1 rs2 : Reg)
  | shri (rd rs : Reg) (imm : Word)
  | slt (rd rs1 rs2 : Reg)
  | slti (rd rs : Reg) (imm : Word)
  | sle (rd rs1 rs2 : Reg)
  | slei (rd rs : Reg) (imm : Word)
  | seq (rd rs1 rs2 : Reg)
  | seqi (rd rs : Reg) (imm : Word)
  | load (rd rs : Reg) (imm : Word)
  /-- `rd` names the register whose value is stored (R172). -/
  | store (rd rs : Reg) (imm : Word)
  | jmpr (rd ra : Reg)
  | jmpi (rd : Reg) (addr : Word)
  | braz (rs : Reg) (addr : Word)
  | branz (rs : Reg) (addr : Word)
  | scall (sel : BitVec 26)
deriving DecidableEq, Repr

end Sys2Proof
end

