-- ==== Sys2Proof/WellFormed.lean ====
section
/-! DEFINITION. Which instructions an instruction word can hold: the ranges the fields have after decoding. -/

namespace Sys2Proof

/-- An I-type immediate is the sign extension of a 16-bit field: its signed value is in -32768..32767 (R74). -/
abbrev ImmFits (imm : Word) : Prop := -32768 ≤ sval imm ∧ sval imm ≤ 32767

/-- A JI address is the zero extension of a 21-bit field (R76). -/
abbrev JumpAddrFits (addr : Word) : Prop := uval addr < 2 ^ 21

/-- A B address is the zero extension of a 17-bit field (R77). -/
abbrev BranchAddrFits (addr : Word) : Prop := uval addr < 2 ^ 17

/-- The instruction's fields are values its encoding can hold. Register fields and the selector fit by their types. -/
def Instr.wellFormed : Instr → Bool
  | .stop | .add _ _ _ | .sub _ _ _ | .mul _ _ _ | .div _ _ _ | .and _ _ _ | .or _ _ _ | .xor _ _ _
  | .shl _ _ _ | .shr _ _ _ | .slt _ _ _ | .sle _ _ _ | .seq _ _ _ | .jmpr _ _ | .scall _ => true
  | .addi _ _ imm | .subi _ _ imm | .muli _ _ imm | .divi _ _ imm | .andi _ _ imm | .ori _ _ imm
  | .xori _ _ imm | .shli _ _ imm | .shri _ _ imm | .slti _ _ imm | .slei _ _ imm | .seqi _ _ imm
  | .load _ _ imm | .store _ _ imm => ImmFits imm
  | .jmpi _ addr => JumpAddrFits addr
  | .braz _ addr | .branz _ addr => BranchAddrFits addr

end Sys2Proof
end

