-- ==== Sys2Proof/Decode.lean ====
section
/-! DEFINITION. The decoder (spec/30_encoding.md §3, §4), total on any word and rejecting an unassigned opcode by name,
and after it the encoder of R90. -/

namespace Sys2Proof

/-- `sext_32` (R13). -/
def sext32 {n : Nat} (f : BitVec n) : Word := f.signExtend 32

/-- `zext_32` (R13). -/
def zext32 {n : Nat} (f : BitVec n) : Word := f.setWidth 32

/-! ## Fields of a word -/

/-- `w[31:26]` (R70, R104). -/
def opcodeField (w : Word) : Opcode := w.extractLsb' 26 6

/-- The register index in the five bits of `w` from bit `lo` up. -/
def regField (lo : Nat) (w : Word) : Reg := Fin.ofNat 32 (w.extractLsb' lo 5).toNat

/-- `w[25:21]`: rd of R, I, JR and JI, rs of B (R73 to R77). -/
def field25 (w : Word) : Reg := regField 21 w

/-- `w[20:16]`: rs1 of R, rs of I, ra of JR (R73 to R75). -/
def field20 (w : Word) : Reg := regField 16 w

/-- `w[15:11]`: rs2 of R (R73). -/
def field15 (w : Word) : Reg := regField 11 w

/-- `sext_32(w[15:0])`, the immediate of every I-type instruction (R74). -/
def immField (w : Word) : Word := sext32 (w.extractLsb' 0 16)

/-- `zext_32(w[20:0])`, the JI address (R76). -/
def jumpAddrField (w : Word) : Word := zext32 (w.extractLsb' 0 21)

/-- `zext_32(w[16:0])`, the B address (R77). -/
def branchAddrField (w : Word) : Word := zext32 (w.extractLsb' 0 17)

/-- `w[25:0]`, the selector (R78). -/
def selField (w : Word) : BitVec 26 := w.extractLsb' 0 26

/-! ## The field decoder of R80 -/

/-- The tagged variant of R80. -/
inductive DecodedFields where
  | r (rd rs1 rs2 : Reg)
  | i (rd rs : Reg) (imm : Word)
  | jr (rd ra : Reg)
  | ji (rd : Reg) (addr : Word)
  | b (rs : Reg) (addr : Word)
  | s (sel : BitVec 26)
  | n
deriving DecidableEq, Repr

/-- The decoder of R80: a pure total function of the word and the type. -/
def decodeFields (w : Word) : InstrType → DecodedFields
  | .R => .r (field25 w) (field20 w) (field15 w)
  | .I => .i (field25 w) (field20 w) (immField w)
  | .JR => .jr (field25 w) (field20 w)
  | .JI => .ji (field25 w) (jumpAddrField w)
  | .B => .b (field25 w) (branchAddrField w)
  | .S => .s (selField w)
  | .N => .n

/-! ## The opcode-to-type table and the dispatch table -/

/-- The type of each mnemonic (R83). -/
def typeOf : Mnemonic → InstrType
  | .stop => .N
  | .add | .sub | .mul | .div | .and | .or | .xor | .shl | .shr | .slt | .sle | .seq => .R
  | .addi | .subi | .muli | .divi | .andi | .ori | .xori | .shli | .shri | .slti | .slei | .seqi
  | .load | .store => .I
  | .jmpr => .JR
  | .jmpi => .JI
  | .braz | .branz => .B
  | .scall => .S

/-- What the dispatch table answers for an opcode (R85). -/
inductive OpClass where
  | exec (m : Mnemonic) (t : InstrType)
  | halt
  | invalid
deriving DecidableEq, Repr

/-- The dispatch table of R85: opcode 0 and OPC_STOP halt, an assigned opcode executes, any other is invalid. -/
def classOf (opc : OpcodeMap) (op : Opcode) : OpClass :=
  if op = 0 ∨ op = opc.code .stop then .halt
  else
    match Mnemonic.assigned.find? (fun m => decide (opc.code m = op)) with
    | some m => .exec m (typeOf m)
    | none => .invalid

/-! ## The instruction a word holds -/

/-- The mnemonic of an instruction. -/
def Instr.mnemonic : Instr → Mnemonic
  | .stop => .stop
  | .add _ _ _ => .add
  | .addi _ _ _ => .addi
  | .sub _ _ _ => .sub
  | .subi _ _ _ => .subi
  | .mul _ _ _ => .mul
  | .muli _ _ _ => .muli
  | .div _ _ _ => .div
  | .divi _ _ _ => .divi
  | .and _ _ _ => .and
  | .andi _ _ _ => .andi
  | .or _ _ _ => .or
  | .ori _ _ _ => .ori
  | .xor _ _ _ => .xor
  | .xori _ _ _ => .xori
  | .shl _ _ _ => .shl
  | .shli _ _ _ => .shli
  | .shr _ _ _ => .shr
  | .shri _ _ _ => .shri
  | .slt _ _ _ => .slt
  | .slti _ _ _ => .slti
  | .sle _ _ _ => .sle
  | .slei _ _ _ => .slei
  | .seq _ _ _ => .seq
  | .seqi _ _ _ => .seqi
  | .load _ _ _ => .load
  | .store _ _ _ => .store
  | .jmpr _ _ => .jmpr
  | .jmpi _ _ => .jmpi
  | .braz _ _ => .braz
  | .branz _ _ => .branz
  | .scall _ => .scall

/-- The fields of an instruction, in the form of R80. -/
def Instr.fields : Instr → DecodedFields
  | .stop => .n
  | .add rd rs1 rs2 | .sub rd rs1 rs2 | .mul rd rs1 rs2 | .div rd rs1 rs2 | .and rd rs1 rs2
  | .or rd rs1 rs2 | .xor rd rs1 rs2 | .shl rd rs1 rs2 | .shr rd rs1 rs2 | .slt rd rs1 rs2
  | .sle rd rs1 rs2 | .seq rd rs1 rs2 => .r rd rs1 rs2
  | .addi rd rs imm | .subi rd rs imm | .muli rd rs imm | .divi rd rs imm | .andi rd rs imm
  | .ori rd rs imm | .xori rd rs imm | .shli rd rs imm | .shri rd rs imm | .slti rd rs imm
  | .slei rd rs imm | .seqi rd rs imm | .load rd rs imm | .store rd rs imm => .i rd rs imm
  | .jmpr rd ra => .jr rd ra
  | .jmpi rd addr => .ji rd addr
  | .braz rs addr | .branz rs addr => .b rs addr
  | .scall sel => .s sel

/-- The instruction of mnemonic `m` with the fields of `w` (R105: the type comes from the opcode alone). -/
def instrOf (m : Mnemonic) (w : Word) : Instr :=
  match m with
  | .stop => .stop
  | .add => .add (field25 w) (field20 w) (field15 w)
  | .addi => .addi (field25 w) (field20 w) (immField w)
  | .sub => .sub (field25 w) (field20 w) (field15 w)
  | .subi => .subi (field25 w) (field20 w) (immField w)
  | .mul => .mul (field25 w) (field20 w) (field15 w)
  | .muli => .muli (field25 w) (field20 w) (immField w)
  | .div => .div (field25 w) (field20 w) (field15 w)
  | .divi => .divi (field25 w) (field20 w) (immField w)
  | .and => .and (field25 w) (field20 w) (field15 w)
  | .andi => .andi (field25 w) (field20 w) (immField w)
  | .or => .or (field25 w) (field20 w) (field15 w)
  | .ori => .ori (field25 w) (field20 w) (immField w)
  | .xor => .xor (field25 w) (field20 w) (field15 w)
  | .xori => .xori (field25 w) (field20 w) (immField w)
  | .shl => .shl (field25 w) (field20 w) (field15 w)
  | .shli => .shli (field25 w) (field20 w) (immField w)
  | .shr => .shr (field25 w) (field20 w) (field15 w)
  | .shri => .shri (field25 w) (field20 w) (immField w)
  | .slt => .slt (field25 w) (field20 w) (field15 w)
  | .slti => .slti (field25 w) (field20 w) (immField w)
  | .sle => .sle (field25 w) (field20 w) (field15 w)
  | .slei => .slei (field25 w) (field20 w) (immField w)
  | .seq => .seq (field25 w) (field20 w) (field15 w)
  | .seqi => .seqi (field25 w) (field20 w) (immField w)
  | .load => .load (field25 w) (field20 w) (immField w)
  | .store => .store (field25 w) (field20 w) (immField w)
  | .jmpr => .jmpr (field25 w) (field20 w)
  | .jmpi => .jmpi (field25 w) (jumpAddrField w)
  | .braz => .braz (field25 w) (branchAddrField w)
  | .branz => .branz (field25 w) (branchAddrField w)
  | .scall => .scall (selField w)

/-- Why a word is no instruction: its opcode is unassigned (R86, R106). Field values are never illegal (R86). -/
inductive DecodeReject where
  | invalidOpcode (opc : Opcode)
deriving DecidableEq, Repr

/-- The decoder: the instruction a word holds under the opcode map, or the opcode that is unassigned (R85, R105). -/
def decode (opc : OpcodeMap) (w : Word) : Except DecodeReject Instr :=
  match classOf opc (opcodeField w) with
  | .halt => .ok .stop
  | .exec m _ => .ok (instrOf m w)
  | .invalid => .error (.invalidOpcode (opcodeField w))

/-- The host's question about an opcode-table row: what the decoder reads from the word `w` of `nbits` bits, the bits
above them 0, under the reference assignment the table is written in. -/
def decodeTableWord (nbits w : Nat) : Option Instr :=
  match decode OpcodeMap.reference (BitVec.ofNat 32 (w % 2 ^ nbits)) with
  | .ok i => some i
  | .error _ => none

/-! ## The encoder of R90 (0 in every ignored bit) -/

/-- A field's value moved to bit `lo`. -/
def place {n : Nat} (f : BitVec n) (lo : Nat) : Word := f.setWidth 32 <<< lo

/-- A register field's value moved to bit `lo`. -/
def placeReg (r : Reg) (lo : Nat) : Word := place (BitVec.ofNat 5 r.val) lo

/-- `encR` (R90). -/
def encR (o : Opcode) (rd rs1 rs2 : Reg) : Word :=
  place o 26 ||| placeReg rd 21 ||| placeReg rs1 16 ||| placeReg rs2 11

/-- `encI` (R90), the immediate truncated to its 16 bits. -/
def encI (o : Opcode) (rd rs : Reg) (imm : Word) : Word :=
  place o 26 ||| placeReg rd 21 ||| placeReg rs 16 ||| place (imm.setWidth 16) 0

/-- `encJR` (R90). -/
def encJR (o : Opcode) (rd ra : Reg) : Word := place o 26 ||| placeReg rd 21 ||| placeReg ra 16

/-- `encJI` (R90), the address truncated to its 21 bits. -/
def encJI (o : Opcode) (rd : Reg) (addr : Word) : Word :=
  place o 26 ||| placeReg rd 21 ||| place (addr.setWidth 21) 0

/-- `encB` (R90), the address truncated to its 17 bits. -/
def encB (o : Opcode) (rs : Reg) (addr : Word) : Word :=
  place o 26 ||| placeReg rs 21 ||| place (addr.setWidth 17) 0

/-- `encS` (R90). -/
def encS (o : Opcode) (sel : BitVec 26) : Word := place o 26 ||| place sel 0

/-- `encN` (R90). -/
def encN (o : Opcode) : Word := place o 26

/-- The word of opcode `o` holding the given fields (R90). -/
def encodeFields (o : Opcode) : DecodedFields → Word
  | .r rd rs1 rs2 => encR o rd rs1 rs2
  | .i rd rs imm => encI o rd rs imm
  | .jr rd ra => encJR o rd ra
  | .ji rd addr => encJI o rd addr
  | .b rs addr => encB o rs addr
  | .s sel => encS o sel
  | .n => encN o

/-- The word of an instruction under the opcode map (R90). -/
def encode (opc : OpcodeMap) (i : Instr) : Word := encodeFields (opc.code i.mnemonic) i.fields

end Sys2Proof
end

