-- ==== Sys2Proof/Machine/Flags.lean ====
section
/-! DEFINITION. The CORE has no flags (R33). What stands in their place: the 0-or-1 result a comparison writes to a
register (R160), and the zero test of a branch (R183, R184). -/

namespace Sys2Proof.Machine

/-- "1 if comparison holds else 0", a full 32-bit value (R160). -/
def boolWord (b : Bool) : Word := if b then 1 else 0

/-- Signed less than (R160, R161). -/
def lessThan (a b : Word) : Bool := decide (sval a < sval b)

/-- Signed less than or equal (R160, R163). -/
def lessOrEqual (a b : Word) : Bool := decide (sval a ≤ sval b)

/-- Equality of the 32-bit patterns (R160, R165). -/
def equal (a b : Word) : Bool := decide (a = b)

/-- The branch test, on all 32 bits (R183). -/
def isZero (a : Word) : Bool := decide (a = 0)

end Sys2Proof.Machine
end

