-- ==== Sys2Proof/Machine/State.lean ====
section
/-! DEFINITION. The machine's state as plain data (R20), the reasons a step can stop without a next state, and the state
after reset (R42, R240). -/

namespace Sys2Proof.Machine

/-- The fault reasons of R211, each with the value it records. Raising one is a transition of the machine
(`run <- faulted reason`, R213), not a stop of the model. -/
inductive FaultReason where
  | invalidOpcode (opc : Opcode)
  | loadOutOfBounds (ea : Int)
  | storeOutOfBounds (ea : Int)
  | divideByZero
  | fetchOutOfBounds (pc : Word)
deriving DecidableEq, Repr

/-- The run state, i.e. the execution-loop state (R35). -/
inductive RunState where
  | running
  | halted
  | faulted (r : FaultReason)
deriving DecidableEq, Repr

/-- The console events (R38). -/
inductive ConsoleEvent where
  | prompt
  | input (v : Word)
  | labeled (v : Word)
  | decimal (v : Word)
  | char (c : BitVec 7)
deriving DecidableEq, Repr

/-- The memory array, listed as bytes in canonical form: word `i` of R36 is the four bytes at `4*i` to `4*i+3`, the
byte at `4*i` its least significant (log 1). Machine/Ops.lean gives the reads and writes. -/
abbrev Memory := List Host.Cell

/-- The architectural state of R20 (`x`, `pc`, `mem`, `run`, `console`), and two fields of the model's own: the integers
the host has supplied and the core has not read yet, oldest first (`hostInput`, R195, log 5), and the parameters of R9
(`cfg`, log 3). -/
structure State where
  cfg : Config
  x : Vector Word 32
  pc : Word
  mem : Memory
  run : RunState
  console : List ConsoleEvent
  hostInput : List Word
deriving DecidableEq, Repr

/-- Why a step has no next state. -/
inductive Fault where
  /-- Raised by `step` when the run state is Halted: the spec gives such a state no step (R35, R109). Safe. -/
  | stoppedHalted
  /-- Raised by `step` when the run state is Faulted: the spec gives such a state no step (R35, R109). Safe. -/
  | stoppedFaulted (r : FaultReason)
  /-- Raised by SCALL selector 0 when the host has supplied no integer: no step is enabled until it does (R195). Safe:
  the state before the step is the state in which the core waits. -/
  | awaitingInput
deriving DecidableEq, Repr

/-- What the model refuses by name. -/
inductive Refusal where
  /-- Raised by `exec` for an instruction without a meaning (none is left). Safe. -/
  | notModelled (mnemonic : String)
  /-- Raised by `boot` for an image longer than the memory: the spec gives it no run (R37, D13). Safe. -/
  | imageTooLong
  /-- Raised by `boot` for parameters that break R10: the spec gives them no meaning. Safe. -/
  | invalidConfig
deriving DecidableEq, Repr

/-- The machine right after reset with the reference parameters and the empty image (R42, R240, R242): every register
0, pc 0, Running, every memory word 0, the console empty. `hostInput` is empty: log 5. -/
def State.reset : State :=
  { cfg := Config.reference
    x := Vector.replicate 32 0
    pc := 0
    mem := []
    run := .running
    console := []
    hostInput := [] }

/-- What a step or a meaning answers. -/
abbrev Result := Host.Outcome State Fault Refusal

end Sys2Proof.Machine
end

