-- ==== Sys2Proof/Machine/Ops.lean ====
section
/-! DEFINITION. The named operations every meaning is written over: memory, registers, pc, run state and console (R14),
fetching (R101, R102), and raising a fault (R210, R213). -/

namespace Sys2Proof.Machine

/-! ## Memory: the listed bytes -/

/-- What a byte nothing lists reads as: memory past the image is 0 (R37, R42; log 2). -/
def Memory.unlisted : Byte := 0

/-- The byte at byte address `a`. -/
def Memory.readByte : Memory → Nat → Byte
  | [], _ => Memory.unlisted
  | (b, v) :: rest, a => if b = a then v else Memory.readByte rest a

/-- Memory with the byte at byte address `a` set to `v`, kept in canonical form. -/
def Memory.writeByte : Memory → Nat → Byte → Memory
  | [], a, v => if v = Memory.unlisted then [] else [(a, v)]
  | (b, u) :: rest, a, v =>
    if b < a then (b, u) :: Memory.writeByte rest a v
    else if b = a then (if v = Memory.unlisted then rest else (a, v) :: rest)
    else if v = Memory.unlisted then (b, u) :: rest
    else (a, v) :: (b, u) :: rest

/-- The canonical form: addresses strictly rising, no entry equal to what an unlisted byte reads as. -/
abbrev Memory.wf (m : Memory) : Prop :=
  m.Pairwise (fun p q => p.1 < q.1) ∧ ∀ p ∈ m, p.2 ≠ Memory.unlisted

/-- Every listed byte belongs to one of the first `n` words. -/
abbrev Memory.within (n : Nat) (m : Memory) : Prop := ∀ p ∈ m, p.1 < 4 * n

/-! ## Memory: the words of R36 -/

/-- The word at word index `i`. -/
def Memory.readWord (m : Memory) (i : Nat) : Word :=
  m.readByte (4 * i + 3) ++ m.readByte (4 * i + 2) ++ m.readByte (4 * i + 1) ++ m.readByte (4 * i)

/-- Memory with the word at word index `i` set to `v`. -/
def Memory.writeWord (m : Memory) (i : Nat) (v : Word) : Memory :=
  (((m.writeByte (4 * i) (v.extractLsb' 0 8)).writeByte (4 * i + 1) (v.extractLsb' 8 8)).writeByte
    (4 * i + 2) (v.extractLsb' 16 8)).writeByte (4 * i + 3) (v.extractLsb' 24 8)

/-- The bounds test, a conjunction (R57), on an exact integer address. -/
abbrev inBounds (memWords : Nat) (ea : Int) : Prop := 0 ≤ ea ∧ ea < memWords

/-- The memory read interface of R55. -/
def memRead (memWords : Nat) (m : Memory) (ea : Int) : Option Word :=
  if inBounds memWords ea then some (m.readWord ea.toNat) else none

/-- The memory write interface of R56. -/
def memWrite (memWords : Nat) (m : Memory) (ea : Int) (v : Word) : Option Memory :=
  if inBounds memWords ea then some (m.writeWord ea.toNat v) else none

/-! ## Registers, pc, run state, console (R14) -/

/-- `x[r]` (R14); no register is hardwired (R22). -/
def readReg (s : State) (r : Reg) : Word := s.x[r]

/-- `x[r] <- v` (R14). -/
def writeReg (s : State) (r : Reg) (v : Word) : State := { s with x := s.x.set r v }

/-- `pc <- t` (R14): any target is written without a check (R186). -/
def setPc (s : State) (t : Word) : State := { s with pc := t }

/-- `mem <- m` (R172). -/
def setMem (s : State) (m : Memory) : State := { s with mem := m }

/-- `emit(e)`: append to the console stream (R14, R192). -/
def emit (s : State) (e : ConsoleEvent) : State := { s with console := s.console ++ [e] }

/-- `halt` (R14, R103). -/
def halt (s : State) : State := { s with run := .halted }

/-- TAKING A FAULT, the machine's only exception (R210, R213): the run state records the reason. Nothing else is saved
or changed, and there is no handler and no return (R213, R214). -/
def raiseFault (s : State) (r : FaultReason) : State := { s with run := .faulted r }

/-- The end of an instruction that computed a value for `rd` or raised a fault (R107, R108). -/
def writeBack (rd : Reg) (v : Except FaultReason Word) (s : State) : Result :=
  match v with
  | .ok v => .next (writeReg s rd v)
  | .error r => .next (raiseFault s r)

/-! ## Fetch (R101, R102) -/

/-- The word at `memory[pc]`, none outside the memory. -/
def fetch (s : State) : Option Word := memRead s.cfg.memWords s.mem (sval s.pc)

/-- The increment after a fetch, before execution: `wrap32(sval pc + 1)` (R32, R100, R101). -/
def advancePc (s : State) : State := { s with pc := wrap32 (sval s.pc + 1) }

/-! ## What the host does (R195, R202) -/

/-- The host supplies one integer to the console; no step of the core (R195, R202; log 5). -/
def supplyInput (s : State) (v : Word) : State := { s with hostInput := s.hostInput ++ [v] }

/-- The word `w` stored where the next step fetches; nothing else changes. Outside the memory nothing is stored. -/
def placeAtPc (s : State) (w : Word) : State :=
  match memWrite s.cfg.memWords s.mem (sval s.pc) w with
  | some m => setMem s m
  | none => s

end Sys2Proof.Machine
end

