-- ==== Sys2Proof/Machine/Operands.lean ====
section
/-! DEFINITION. The operand forms (R81, R120, R170): a register, an immediate already sign-extended by the decoder, and
the one addressing mode. There is no other form, no indirect and no pre- or post-modified addressing (R81, R170). -/

namespace Sys2Proof.Machine

/-- The second operand of an ALU instruction: a register in an R form, the immediate in an I form (R120). -/
inductive Operand where
  | reg (r : Reg)
  | imm (v : Word)
deriving DecidableEq, Repr

/-- The operand's value; every read comes before the write of rd (R25, R120). -/
def operandValue (s : State) : Operand → Word
  | .reg r => readReg s r
  | .imm v => v

/-- The effective address: the base register's value plus the immediate, as an unbounded integer (R170). -/
def effectiveAddress (s : State) (rs : Reg) (imm : Word) : Int := sval (readReg s rs) + sval imm

end Sys2Proof.Machine
end

