-- ==== Sys2Proof/Machine/Alu.lean ====
section
/-! DEFINITION. The ALU of R120, shared by the arithmetic, logic, shift and comparison instructions. -/

namespace Sys2Proof.Machine

/-- The ALU's operations (R120). -/
inductive AluOp where
  | add | sub | mul | div | and | or | xor | shl | shr | slt | sle | seq
deriving DecidableEq, Repr

/-- The quotient rounded toward zero (R16). -/
def tdiv (a b : Int) : Int := Int.tdiv a b

/-- `shl(a, n)` of R140: zeros enter at bit 0, an amount of 32 or more gives 0. -/
def shiftLeft (a : Word) (n : Nat) : Word := if n ≥ 32 then 0 else wrap32 ((uval a * 2 ^ n : Nat) : Int)

/-- `shr(a, n)` of R140: zeros enter at bit 31, an amount of 32 or more gives 0. -/
def shiftRight (a : Word) (n : Nat) : Word := if n ≥ 32 then 0 else wrap32 ((uval a / 2 ^ n : Nat) : Int)

/-- Division: a zero divisor faults, an unrepresentable quotient wraps (R127, R131). -/
def divide (a b : Word) : Except FaultReason Word :=
  if sval b = 0 then .error .divideByZero else .ok (wrap32 (tdiv (sval a) (sval b)))

/-- The ALU of R120; its only error is divideByZero. -/
def alu : AluOp → Word → Word → Except FaultReason Word
  | .add, a, b => .ok (wrap32 (sval a + sval b))
  | .sub, a, b => .ok (wrap32 (sval a - sval b))
  | .mul, a, b => .ok (wrap32 (sval a * sval b))
  | .div, a, b => divide a b
  | .and, a, b => .ok (a &&& b)
  | .or, a, b => .ok (a ||| b)
  | .xor, a, b => .ok (a ^^^ b)
  | .shl, a, b => .ok (shiftLeft a (uval b))
  | .shr, a, b => .ok (shiftRight a (uval b))
  | .slt, a, b => .ok (boolWord (lessThan a b))
  | .sle, a, b => .ok (boolWord (lessOrEqual a b))
  | .seq, a, b => .ok (boolWord (equal a b))

/-- An ALU instruction: read both operands, compute, write rd or raise the fault (R120, R108). -/
def execAlu (op : AluOp) (rd ra : Reg) (b : Operand) (s : State) : Result :=
  writeBack rd (alu op (readReg s ra) (operandValue s b)) s

end Sys2Proof.Machine
end

