-- ==== Sys2Proof/Machine/Arithmetic.lean ====
section
/-! DEFINITION. The arithmetic instructions (spec/41_arithmetic.md). Overflow wraps and is not recorded (R129); a product keeps its low 32 bits (R130). -/

namespace Sys2Proof.Machine

/-- ADD: the wrapped sum of two registers (R121). -/
def execAdd (rd rs1 rs2 : Reg) (s : State) : Result := execAlu .add rd rs1 (.reg rs2) s

/-- ADDI: the wrapped sum of a register and the immediate (R122). -/
def execAddi (rd rs : Reg) (imm : Word) (s : State) : Result := execAlu .add rd rs (.imm imm) s

/-- SUB: the wrapped difference of two registers (R123). -/
def execSub (rd rs1 rs2 : Reg) (s : State) : Result := execAlu .sub rd rs1 (.reg rs2) s

/-- SUBI: the wrapped difference of a register and the immediate (R124). -/
def execSubi (rd rs : Reg) (imm : Word) (s : State) : Result := execAlu .sub rd rs (.imm imm) s

/-- MUL: the wrapped product of two registers (R125). -/
def execMul (rd rs1 rs2 : Reg) (s : State) : Result := execAlu .mul rd rs1 (.reg rs2) s

/-- MULI: the wrapped product of a register and the immediate (R126). -/
def execMuli (rd rs : Reg) (imm : Word) (s : State) : Result := execAlu .mul rd rs (.imm imm) s

/-- DIV: the quotient of two registers, or the divide fault (R127, R131). -/
def execDiv (rd rs1 rs2 : Reg) (s : State) : Result := execAlu .div rd rs1 (.reg rs2) s

/-- DIVI: the quotient of a register and the immediate, or the divide fault (R128, R131). -/
def execDivi (rd rs : Reg) (imm : Word) (s : State) : Result := execAlu .div rd rs (.imm imm) s

end Sys2Proof.Machine
end

