-- ==== Sys2Proof/Machine/Compare.lean ====
section
/-! DEFINITION. The comparison instructions (spec/43_compare.md): the result is a register value, no flag (R160). -/

namespace Sys2Proof.Machine

/-- SLT: signed less than, of two registers (R161). -/
def execSlt (rd rs1 rs2 : Reg) (s : State) : Result := execAlu .slt rd rs1 (.reg rs2) s

/-- SLTI: signed less than, of a register and the immediate (R162). -/
def execSlti (rd rs : Reg) (imm : Word) (s : State) : Result := execAlu .slt rd rs (.imm imm) s

/-- SLE: signed less than or equal, of two registers (R163). -/
def execSle (rd rs1 rs2 : Reg) (s : State) : Result := execAlu .sle rd rs1 (.reg rs2) s

/-- SLEI: signed less than or equal, of a register and the immediate (R164). -/
def execSlei (rd rs : Reg) (imm : Word) (s : State) : Result := execAlu .sle rd rs (.imm imm) s

/-- SEQ: equality of the patterns of two registers (R165). -/
def execSeq (rd rs1 rs2 : Reg) (s : State) : Result := execAlu .seq rd rs1 (.reg rs2) s

/-- SEQI: equality of the patterns of a register and the immediate (R166). -/
def execSeqi (rd rs : Reg) (imm : Word) (s : State) : Result := execAlu .seq rd rs (.imm imm) s

end Sys2Proof.Machine
end

