-- ==== Sys2Proof/Machine/Console.lean ====
section
/-! DEFINITION. The syscall handler and SCALL (spec/46_syscall.md). -/

namespace Sys2Proof.Machine

/-- `x[IO_REG]` (R193). -/
def readIo (s : State) : Word := readReg s s.cfg.ioReg

/-- The syscall handler of R190, on the selector's exact value (R191). It answers none only for selector 0 without an
integer from the host (R195). Selector 0 appends both events in one step, then writes the I/O register (R194);
selectors 1, 2, 3 append one output event each (R196, R197, R198); any other selector has no effect (R199). -/
def syscall (sel : BitVec 26) (s : State) (hostIn : Option Word) : Option State :=
  if sel = 0 then
    match hostIn with
    | some v => some (writeReg (emit (emit s .prompt) (.input v)) s.cfg.ioReg v)
    | none => none
  else if sel = 1 then some (emit s (.labeled (readIo s)))
  else if sel = 2 then some (emit s (.decimal (readIo s)))
  else if sel = 3 then some (emit s (.char ((readIo s).extractLsb' 0 7)))
  else some s

/-- The integer selector 0 read is no longer waiting (log 5). -/
def dropInput (sel : BitVec 26) (s : State) : State :=
  if sel = 0 then { s with hostInput := s.hostInput.tail } else s

/-- SCALL (R200). Without an integer from the host selector 0 has no next state: the core waits (R195, log 6). -/
def execScall (sel : BitVec 26) (s : State) : Result :=
  match syscall sel s s.hostInput.head? with
  | some t => .next (dropInput sel t)
  | none => .fault .awaitingInput

/-- What the host prints for an event (R192, informative), under the text parameters of R9. Three points are the model's
own (log 25), since the spec leaves them open (N9, D21, D23). The format of a decimal, DESIGN CHOICE: a minus sign only
when negative, then the digits with no leading zero and no padding. An `input` event, DESIGN CHOICE: no text, since the
operator typed it. A character, PRESUMED: the ASCII one of the code. No step reads any of it. -/
def renderEvent (p : Parameters) : ConsoleEvent → String
  | .prompt => p.promptText
  | .input _ => ""
  | .labeled v => p.labelText ++ toString (sval v) ++ p.separatorText
  | .decimal v => toString (sval v)
  | .char c => String.singleton (Char.ofNat c.toNat)

end Sys2Proof.Machine
end

