-- ==== Sys2Proof/Machine/Control.lean ====
section
/-! DEFINITION. Control transfer (spec/45_control_transfer.md) and the halt (R103). On entry pc is already the index
after the fetched instruction (R29, R101). Targets are absolute word indices, written without a check (R180, R186). -/

namespace Sys2Proof.Machine

/-- The link of JMPR and JMPI: rd receives pc, the index after the jump (R181, R182; R18 "link"). -/
def writeLink (s : State) (rd : Reg) : State := writeReg s rd s.pc

/-- A branch: pc receives the target when taken and keeps its value when not (R180). -/
def branchIf (taken : Bool) (addr : Word) (s : State) : State := if taken then setPc s addr else s

/-- JMPR (R181): the link is written first and the target read after it, so with rd = ra the jump falls through. -/
def execJmpr (rd ra : Reg) (s : State) : Result :=
  .next (setPc (writeLink s rd) (readReg (writeLink s rd) ra))

/-- JMPI (R182). -/
def execJmpi (rd : Reg) (addr : Word) (s : State) : Result := .next (setPc (writeLink s rd) addr)

/-- BRAZ: branch if the register is zero (R183). -/
def execBraz (rs : Reg) (addr : Word) (s : State) : Result :=
  .next (branchIf (isZero (readReg s rs)) addr s)

/-- BRANZ: branch if the register is not zero (R184). -/
def execBranz (rs : Reg) (addr : Word) (s : State) : Result :=
  .next (branchIf (!isZero (readReg s rs)) addr s)

/-- STOP and opcode 0 (R103): the machine halts; pc stays at the index after the word. -/
def execStop (s : State) : Result := .next (halt s)

end Sys2Proof.Machine
end

