-- ==== Sys2Proof/Machine/LoadStore.lean ====
section
/-! DEFINITION. LOAD and STORE (spec/44_load_store.md): one word access each, completed in its step (R175). -/

namespace Sys2Proof.Machine

/-- What a read at `ea` gives LOAD: the word's 32 bits unchanged (R174), or loadOutOfBounds with the exact address. -/
def loadValue (s : State) (ea : Int) : Except FaultReason Word :=
  match memRead s.cfg.memWords s.mem ea with
  | some v => .ok v
  | none => .error (.loadOutOfBounds ea)

/-- LOAD (R171): rd receives the word at the effective address; outside the memory the fault, rd not written. -/
def execLoad (rd rs : Reg) (imm : Word) (s : State) : Result :=
  writeBack rd (loadValue s (effectiveAddress s rs imm)) s

/-- STORE (R172): the word at the effective address receives x[rd]; outside the memory the fault, nothing written. -/
def execStore (rd rs : Reg) (imm : Word) (s : State) : Result :=
  match memWrite s.cfg.memWords s.mem (effectiveAddress s rs imm) (readReg s rd) with
  | some m => .next (setMem s m)
  | none => .next (raiseFault s (.storeOutOfBounds (effectiveAddress s rs imm)))

end Sys2Proof.Machine
end

