-- ==== Sys2Proof/Machine/Logic.lean ====
section
/-! DEFINITION. The bitwise and shift instructions (spec/42_logic_shift.md). None of them faults. -/

namespace Sys2Proof.Machine

/-- AND: bitwise and of two registers (R141). -/
def execAnd (rd rs1 rs2 : Reg) (s : State) : Result := execAlu .and rd rs1 (.reg rs2) s

/-- ANDI: bitwise and of a register and the immediate (R142). -/
def execAndi (rd rs : Reg) (imm : Word) (s : State) : Result := execAlu .and rd rs (.imm imm) s

/-- OR: bitwise or of two registers (R143). -/
def execOr (rd rs1 rs2 : Reg) (s : State) : Result := execAlu .or rd rs1 (.reg rs2) s

/-- ORI: bitwise or of a register and the immediate (R144). -/
def execOri (rd rs : Reg) (imm : Word) (s : State) : Result := execAlu .or rd rs (.imm imm) s

/-- XOR: bitwise exclusive or of two registers (R145). -/
def execXor (rd rs1 rs2 : Reg) (s : State) : Result := execAlu .xor rd rs1 (.reg rs2) s

/-- XORI: bitwise exclusive or of a register and the immediate (R146). -/
def execXori (rd rs : Reg) (imm : Word) (s : State) : Result := execAlu .xor rd rs (.imm imm) s

/-- SHL: logical left shift, over two registers (R147, R140). -/
def execShl (rd rs1 rs2 : Reg) (s : State) : Result := execAlu .shl rd rs1 (.reg rs2) s

/-- SHLI: logical left shift, over a register and the immediate (R148, R140). -/
def execShli (rd rs : Reg) (imm : Word) (s : State) : Result := execAlu .shl rd rs (.imm imm) s

/-- SHR: logical right shift, over two registers (R149, R140). -/
def execShr (rd rs1 rs2 : Reg) (s : State) : Result := execAlu .shr rd rs1 (.reg rs2) s

/-- SHRI: logical right shift, over a register and the immediate (R150, R140). -/
def execShri (rd rs : Reg) (imm : Word) (s : State) : Result := execAlu .shr rd rs (.imm imm) s

end Sys2Proof.Machine
end

