-- ==== Sys2Proof/Machine/Dispatch.lean ====
section
/-! DEFINITION. One arm per instruction: execute m on its decoded fields (R100, R105), on a state whose pc is already past
the instruction. -/

namespace Sys2Proof.Machine

def exec (i : Instr) (s : State) : Host.Outcome State Fault Refusal :=
  match i with
  | .stop => Sys2Proof.Machine.execStop s
  | .add rd rs1 rs2 => Sys2Proof.Machine.execAdd rd rs1 rs2 s
  | .addi rd rs imm => Sys2Proof.Machine.execAddi rd rs imm s
  | .sub rd rs1 rs2 => Sys2Proof.Machine.execSub rd rs1 rs2 s
  | .subi rd rs imm => Sys2Proof.Machine.execSubi rd rs imm s
  | .mul rd rs1 rs2 => Sys2Proof.Machine.execMul rd rs1 rs2 s
  | .muli rd rs imm => Sys2Proof.Machine.execMuli rd rs imm s
  | .div rd rs1 rs2 => Sys2Proof.Machine.execDiv rd rs1 rs2 s
  | .divi rd rs imm => Sys2Proof.Machine.execDivi rd rs imm s
  | .and rd rs1 rs2 => Sys2Proof.Machine.execAnd rd rs1 rs2 s
  | .andi rd rs imm => Sys2Proof.Machine.execAndi rd rs imm s
  | .or rd rs1 rs2 => Sys2Proof.Machine.execOr rd rs1 rs2 s
  | .ori rd rs imm => Sys2Proof.Machine.execOri rd rs imm s
  | .xor rd rs1 rs2 => Sys2Proof.Machine.execXor rd rs1 rs2 s
  | .xori rd rs imm => Sys2Proof.Machine.execXori rd rs imm s
  | .shl rd rs1 rs2 => Sys2Proof.Machine.execShl rd rs1 rs2 s
  | .shli rd rs imm => Sys2Proof.Machine.execShli rd rs imm s
  | .shr rd rs1 rs2 => Sys2Proof.Machine.execShr rd rs1 rs2 s
  | .shri rd rs imm => Sys2Proof.Machine.execShri rd rs imm s
  | .slt rd rs1 rs2 => Sys2Proof.Machine.execSlt rd rs1 rs2 s
  | .slti rd rs imm => Sys2Proof.Machine.execSlti rd rs imm s
  | .sle rd rs1 rs2 => Sys2Proof.Machine.execSle rd rs1 rs2 s
  | .slei rd rs imm => Sys2Proof.Machine.execSlei rd rs imm s
  | .seq rd rs1 rs2 => Sys2Proof.Machine.execSeq rd rs1 rs2 s
  | .seqi rd rs imm => Sys2Proof.Machine.execSeqi rd rs imm s
  | .load rd rs imm => Sys2Proof.Machine.execLoad rd rs imm s
  | .store rd rs imm => Sys2Proof.Machine.execStore rd rs imm s
  | .jmpr rd ra => Sys2Proof.Machine.execJmpr rd ra s
  | .jmpi rd addr => Sys2Proof.Machine.execJmpi rd addr s
  | .braz rs addr => Sys2Proof.Machine.execBraz rs addr s
  | .branz rs addr => Sys2Proof.Machine.execBranz rs addr s
  | .scall sel => Sys2Proof.Machine.execScall sel s

end Sys2Proof.Machine
end

