-- ==== Sys2Proof/Machine/Cycle.lean ====
section
/-! DEFINITION. The fetch-decode-execute cycle of a Running state (R100). -/

namespace Sys2Proof.Machine

/-- A step of a Running state (R100): a fetch outside the memory faults with pc unchanged (R102); an unassigned opcode
faults with pc past the word (R106); any other word is executed with pc past it (R101, R105). -/
def stepRunning (s : State) : Result :=
  match fetch s with
  | none => .next (raiseFault s (.fetchOutOfBounds s.pc))
  | some w =>
    match decode s.cfg.opc w with
    | .error (.invalidOpcode op) => .next (raiseFault (advancePc s) (.invalidOpcode op))
    | .ok i => exec i (advancePc s)

end Sys2Proof.Machine
end

