-- ==== Sys2Proof/Machine/Step.lean ====
section
/-! DEFINITION. One step (R100, R109), and the host's way of placing an instruction. -/

namespace Sys2Proof.Machine

/-- One step. Halted and Faulted are terminal: no step is taken (R35, R109; log 7). -/
def step (s : State) : Host.Outcome State Fault Refusal :=
  match s.run with
  | .running => stepRunning s
  | .halted => .fault .stoppedHalted
  | .faulted r => .fault (.stoppedFaulted r)

/-- `s` with the instruction word `w` of `nbits` bits, the bits above them 0, stored where `step` fetches next (log 8). -/
def State.withFetchWord (s : State) (nbits w : Nat) : State := placeAtPc s (BitVec.ofNat 32 (w % 2 ^ nbits))

end Sys2Proof.Machine
end

