-- ==== Sys2Proof/Machine/Loader.lean ====
section
/-! DEFINITION. What happens before the first step: the loader's words (R37, R52) and reset with an image (R240). -/

namespace Sys2Proof.Machine

/-- The word of four file bytes, in file order, under the image byte order (R52). -/
def wordOfBytes (o : ByteOrder) (b0 b1 b2 b3 : Byte) : Word :=
  match o with
  | .little => b0.setWidth 32 ||| b1.setWidth 32 <<< 8 ||| b2.setWidth 32 <<< 16 ||| b3.setWidth 32 <<< 24
  | .big => b0.setWidth 32 <<< 24 ||| b1.setWidth 32 <<< 16 ||| b2.setWidth 32 <<< 8 ||| b3.setWidth 32

/-- The image of a program file: one word per four bytes, a trailing partial word dropped (R37, R52). -/
def imageOfBytes (o : ByteOrder) : List Byte → List Word
  | b0 :: b1 :: b2 :: b3 :: rest => wordOfBytes o b0 b1 b2 b3 :: imageOfBytes o rest
  | _ => []

/-- Memory with the words of `img` written from word index `i` up. -/
def writeImage (m : Memory) (i : Nat) : List Word → Memory
  | [] => m
  | w :: ws => writeImage (m.writeWord i w) (i + 1) ws

/-- Reset (R240): the image at index 0 and 0 past it, every register 0, pc 0, Running, the console empty. An image longer
than the memory is refused (R37, R241), and so are parameters that break R10 (log 11). -/
def boot (cfg : Config) (img : List Word) : Result :=
  if ¬ cfg.Valid then .refused .invalidConfig
  else if cfg.memWords < img.length then .refused .imageTooLong
  else
    .next
      { cfg := cfg
        x := Vector.replicate 32 0
        pc := 0
        mem := writeImage [] 0 img
        run := .running
        console := []
        hostInput := [] }

/-- Reset from the bytes of a program file, put together in the order IMAGE_BYTE_ORDER names (R37, R52). -/
def bootFile (cfg : Config) (file : List Byte) : Result := boot cfg (imageOfBytes cfg.imageByteOrder file)

end Sys2Proof.Machine
end

