-- ==== Sys2Proof/Machine/Report.lean ====
section
/-! DEFINITION. What the host sees of a run: the fault codes (R211), the exit status (R219), and the observation of a
finished run (R110). No instruction reads any of it. -/

namespace Sys2Proof.Machine

/-- The code of a fault reason (R211; the codes are the spec's own, D24). -/
def faultCode : FaultReason → Nat
  | .invalidOpcode _ => 1
  | .loadOutOfBounds _ => 2
  | .storeOutOfBounds _ => 3
  | .divideByZero => 4
  | .fetchOutOfBounds _ => 5

/-- The process exit status a terminal run state maps to: 0 on a halt, the parameter EXIT_FAULT on a fault (R219). -/
def exitStatus (p : Parameters) : RunState → Option Nat
  | .running => none
  | .halted => some 0
  | .faulted _ => some p.exitFault

/-- The observation of a finished run (R110). -/
structure Observation where
  run : RunState
  x : Vector Word 32
  console : List ConsoleEvent
deriving DecidableEq, Repr

/-- What R110 lets the host observe of a state. -/
def observe (s : State) : Observation := { run := s.run, x := s.x, console := s.console }

end Sys2Proof.Machine
end

