-- ==== Sys2Proof/Safety.lean ====
section
/-! DEFINITION. The terms claims are stated in: the invariant of the machine, and what an instruction leaves unchanged. -/

namespace Sys2Proof.Machine

/-- The invariant: the parameters satisfy R10, memory is in canonical form and lists no byte outside the MEM_WORDS words.
Every value of the other fields is legal (R28, R31, R38). -/
def State.Inv (s : State) : Prop :=
  s.cfg.Valid ∧ s.mem.wf ∧ Memory.within s.cfg.memWords s.mem

/-- A terminal run state (R18, R35). -/
def RunState.terminal (r : RunState) : Prop := r ≠ .running

/-- Every byte of memory reads in `t` as in `s`. -/
def SameMemory (s t : State) : Prop := ∀ a, t.mem.readByte a = s.mem.readByte a

/-- Every register reads in `t` as in `s`. -/
def SameRegs (s t : State) : Prop := ∀ r, readReg t r = readReg s r

/-- Every register but `rd` reads in `t` as in `s`. -/
def SameRegsBut (rd : Reg) (s t : State) : Prop := ∀ r, r ≠ rd → readReg t r = readReg s r

/-- The console stream, the host's waiting integers and the parameters are unchanged. -/
def SameHost (s t : State) : Prop := t.console = s.console ∧ t.hostInput = s.hostInput ∧ t.cfg = s.cfg

/-- The frame and result of an instruction that only writes `v` to `rd`: pc (already past the instruction), memory, run
state, console and all other registers unchanged. -/
def WritesOnlyReg (rd : Reg) (v : Word) (s t : State) : Prop :=
  readReg t rd = v ∧ SameRegsBut rd s t ∧ t.pc = s.pc ∧ SameMemory s t ∧ t.run = s.run ∧ SameHost s t

/-- The state after a fault raised on `s`: the run state records the reason, nothing else changes (R108, R213). -/
def FaultsWith (r : FaultReason) (s t : State) : Prop :=
  t.run = .faulted r ∧ t.pc = s.pc ∧ SameRegs s t ∧ SameMemory s t ∧ SameHost s t

/-- The word a Running state fetches, read through the memory interface (R101). -/
def fetches (s : State) (w : Word) : Prop :=
  s.run = .running ∧ memRead s.cfg.memWords s.mem (sval s.pc) = some w

/-- A Running state's next instruction. -/
def runsNext (s : State) (i : Instr) : Prop := ∃ w, fetches s w ∧ decode s.cfg.opc w = .ok i

/-- The bits of a word that no field of the type names (R82). The decoder does not use this table. -/
def ignoredBits : InstrType → Word
  | .R => 0x7FF
  | .JR => 0xFFFF
  | .B => 0x1E0000
  | .N => 0x3FFFFFF
  | .I | .JI | .S => 0

end Sys2Proof.Machine
end

