-- ==== Sys2Proof/Certificates/Slice0/Obligations.lean ====
section
/-! DEFINITION. The statements for the provers, from the rules of spec/. A meaning runs on a state whose pc is already past
the instruction (R29, R101), so "pc unchanged" in a statement about `exec` is the spec's p + 1. -/

open Sys2Proof Sys2Proof.Machine

/-- R12: the values a pattern denotes, and `wrap32`. -/
def Obligations.WrapIsTheResidueModuloTwoToThe32 : Prop :=
  (∀ (n : Int) (v : Word), v = wrap32 n ↔ (uval v : Int) = n % 2 ^ 32) ∧
  (∀ v : Word, -2 ^ 31 ≤ sval v ∧ sval v ≤ 2 ^ 31 - 1 ∧ uval v ≤ 2 ^ 32 - 1 ∧
    sval v = if uval v < 2 ^ 31 then (uval v : Int) else (uval v : Int) - 2 ^ 32)

/-- R73 to R79, R104: the field layouts, in arithmetic on the word. -/
def Obligations.FieldsFollowTheLayouts : Prop :=
  (∀ w : Word, opcodeField w = BitVec.ofNat 6 (uval w / 2 ^ 26)) ∧
  (∀ (w : Word) (ty : InstrType), decodeFields w ty =
    match ty with
    | .R => .r (Fin.ofNat 32 (uval w / 2 ^ 21)) (Fin.ofNat 32 (uval w / 2 ^ 16)) (Fin.ofNat 32 (uval w / 2 ^ 11))
    | .I => .i (Fin.ofNat 32 (uval w / 2 ^ 21)) (Fin.ofNat 32 (uval w / 2 ^ 16))
        (wrap32 (if uval w % 2 ^ 16 < 2 ^ 15 then ((uval w % 2 ^ 16 : Nat) : Int)
          else ((uval w % 2 ^ 16 : Nat) : Int) - 2 ^ 16))
    | .JR => .jr (Fin.ofNat 32 (uval w / 2 ^ 21)) (Fin.ofNat 32 (uval w / 2 ^ 16))
    | .JI => .ji (Fin.ofNat 32 (uval w / 2 ^ 21)) (BitVec.ofNat 32 (uval w % 2 ^ 21))
    | .B => .b (Fin.ofNat 32 (uval w / 2 ^ 21)) (BitVec.ofNat 32 (uval w % 2 ^ 17))
    | .S => .s (BitVec.ofNat 26 (uval w))
    | .N => .n) ∧
  (∀ (opc : OpcodeMap) (w : Word) (i : Instr), decode opc w = .ok i →
    i.fields = decodeFields w (typeOf i.mnemonic))

/-- R85: the dispatch table is total and well defined. -/
def Obligations.DispatchTableClassifiesEveryOpcode : Prop :=
  ∀ opc : OpcodeMap, opc.Valid →
    classOf opc 0 = .halt ∧ classOf opc (opc.code .stop) = .halt ∧
    (∀ m, m ≠ .stop → classOf opc (opc.code m) = .exec m (typeOf m)) ∧
    (∀ op, op ≠ 0 → op ≠ opc.code .stop → (∀ m, m ≠ .stop → opc.code m ≠ op) → classOf opc op = .invalid)

/-- R90: `decode(enc(...))` returns the encoded fields, for all 32 instructions and every opcode map. -/
def Obligations.DecodeOfEncodeIsTheInstruction : Prop :=
  ∀ (opc : OpcodeMap) (i : Instr), opc.Valid → i.wellFormed = true → decode opc (encode opc i) = .ok i

/-- R74, R76, R77: the ranges of the extended fields. -/
def Obligations.DecodedInstructionsAreWellFormed : Prop :=
  ∀ (opc : OpcodeMap) (w : Word) (i : Instr), decode opc w = .ok i → i.wellFormed = true

/-- R82: the ignored bits of each type. -/
def Obligations.IgnoredBitsDoNotMatter : Prop :=
  ∀ (opc : OpcodeMap) (w w' : Word) (i : Instr), decode opc w = .ok i →
    (w ^^^ w') &&& ~~~(ignoredBits (typeOf i.mnemonic)) = 0 →
    decode opc w' = .ok i

/-- A sanity statement on words of 95_test_vectors.md, under the reference assignment (log 4). The first word is not
in the spec: it is the model's correction of the row 0x04611FFF of section 2.1, which contradicts R73 (log 13,
DEDUCED). -/
def Obligations.WordsOfTheSpecDecode : Prop :=
  decode OpcodeMap.reference 0x046117FF = .ok (.add 3 1 2) ∧
  decode OpcodeMap.reference 0x08418000 = .ok (.addi 2 1 0xFFFF8000) ∧
  decode OpcodeMap.reference 0x6C220000 = .ok (.jmpr 1 2) ∧
  decode OpcodeMap.reference 0x70BFFFFF = .ok (.jmpi 5 0x1FFFFF) ∧
  decode OpcodeMap.reference 0x7421FFFF = .ok (.braz 1 0x1FFFF) ∧
  decode OpcodeMap.reference 0x7FFFFFFF = .ok (.scall 0x3FFFFFF) ∧
  decode OpcodeMap.reference 0x03FFFFFF = .ok .stop ∧
  decode OpcodeMap.reference 0x80000000 = .error (.invalidOpcode 32)

/-- R55, R56, R57: the memory interface, its conjunctive bounds test, and who raises what on a none answer. The
canonical form, as the premise and as the last clause, is the model's own representation (log 1, DESIGN CHOICE), no
rule of the spec. -/
def Obligations.MemoryInterfaceReadsAndWritesOneWord : Prop :=
  (∀ (s : State) (rd rs : Reg) (imm : Word),
    (memRead s.cfg.memWords s.mem (effectiveAddress s rs imm) = none → exec (.load rd rs imm) s =
      .next { s with run := .faulted (.loadOutOfBounds (effectiveAddress s rs imm)) }) ∧
    (memWrite s.cfg.memWords s.mem (effectiveAddress s rs imm) (readReg s rd) = none → exec (.store rd rs imm) s =
      .next { s with run := .faulted (.storeOutOfBounds (effectiveAddress s rs imm)) }) ∧
    (s.run = .running → memRead s.cfg.memWords s.mem (sval s.pc) = none → step s =
      .next { s with run := .faulted (.fetchOutOfBounds s.pc) })) ∧
  ∀ (n : Nat) (m : Memory) (ea : Int) (v : Word), m.wf →
    ((memRead n m ea).isSome = true ↔ 0 ≤ ea ∧ ea < n) ∧
    ((memWrite n m ea v).isSome = true ↔ 0 ≤ ea ∧ ea < n) ∧
    ∀ m', memWrite n m ea v = some m' →
      memRead n m' ea = some v ∧ (∀ ea', ea' ≠ ea → memRead n m' ea' = memRead n m ea') ∧ m'.wf

/-- The model's own choice of representation (log 1): equal memories are equal data. -/
def Obligations.CanonicalMemoriesWithEqualReadsAreEqual : Prop :=
  ∀ m m' : Memory, m.wf → m'.wf → (∀ a, m.readByte a = m'.readByte a) → m = m'

/-- R173: both readings of ea reject the same addresses. -/
def Obligations.BoundsVerdictIsTheSameWrapped : Prop :=
  ∀ (base imm : Word) (n : Nat), ImmFits imm →
    (-2 ^ 31 - 2 ^ 15 ≤ sval base + sval imm ∧ sval base + sval imm ≤ 2 ^ 31 - 1 + 2 ^ 15 - 1) ∧
    (2 ^ 31 ≤ sval base + sval imm → sval (wrap32 (sval base + sval imm)) < 0) ∧
    (sval base + sval imm < -2 ^ 31 → 2 ^ 31 - 2 ^ 15 ≤ sval (wrap32 (sval base + sval imm))) ∧
    (n ≤ 2 ^ 31 - 2 ^ 15 →
      (inBounds n (sval base + sval imm) ↔ inBounds n (sval (wrap32 (sval base + sval imm))))) ∧
    ∀ (rd rs : Reg) (s : State), readReg s rs = base → ¬ inBounds s.cfg.memWords (sval base + sval imm) →
      exec (.load rd rs imm) s = .next { s with run := .faulted (.loadOutOfBounds (sval base + sval imm)) } ∧
      exec (.store rd rs imm) s = .next { s with run := .faulted (.storeOutOfBounds (sval base + sval imm)) }

/-- R42: the reset value of every piece of state. The 0 past the image is D12 (log 2), the empty console D21 (log 12).
-/
def Obligations.ResetLoadsTheImage : Prop :=
  ∀ (cfg : Config) (img : List Word), cfg.Valid → img.length ≤ cfg.memWords →
    ∃ s, boot cfg img = .next s ∧ (∀ r, readReg s r = 0) ∧ s.pc = 0 ∧ s.run = .running ∧ s.console = [] ∧
      s.cfg = cfg ∧ ∀ i : Nat, i < cfg.memWords →
        memRead cfg.memWords s.mem i = some (if i < img.length then img.getD i 0 else 0)

/-- R52: the byte order of the program file. -/
def Obligations.ImageWordsFollowTheByteOrder : Prop :=
  ∀ (file : List Byte) (i : Nat),
    (imageOfBytes .little file).length = file.length / 4 ∧ (imageOfBytes .big file).length = file.length / 4 ∧
    (i < file.length / 4 →
      uval ((imageOfBytes .little file).getD i 0) =
        (file.getD (4 * i) 0).toNat + 2 ^ 8 * (file.getD (4 * i + 1) 0).toNat +
          2 ^ 16 * (file.getD (4 * i + 2) 0).toNat + 2 ^ 24 * (file.getD (4 * i + 3) 0).toNat ∧
      uval ((imageOfBytes .big file).getD i 0) =
        2 ^ 24 * (file.getD (4 * i) 0).toNat + 2 ^ 16 * (file.getD (4 * i + 1) 0).toNat +
          2 ^ 8 * (file.getD (4 * i + 2) 0).toNat + (file.getD (4 * i + 3) 0).toNat) ∧
    Config.reference.imageByteOrder = .little ∧
    ∀ cfg : Config, bootFile cfg file = boot cfg (imageOfBytes cfg.imageByteOrder file)

/-- The invariant holds at reset; it rests on the reference parameters (log 3, log 4) and the memory's form (log 1).
-/
def Obligations.ResetMeetsTheInvariant : Prop :=
  State.reset.Inv ∧ boot Config.reference [] = .next State.reset

/-- The invariant holds at every start of a run; R37's refusal, and the model's own for R10 (log 11). -/
def Obligations.EveryResetMeetsTheInvariantOrIsRefused : Prop :=
  ∀ (cfg : Config) (img : List Word),
    (∀ s, boot cfg img = .next s → s.Inv ∧ s.cfg = cfg) ∧
    (cfg.Valid → cfg.memWords < img.length → boot cfg img = .refused .imageTooLong) ∧
    (¬ cfg.Valid → boot cfg img = .refused .invalidConfig)

/-- R242 and the example of R103: memory of zeros, or one STOP word, halts after one step. -/
def Obligations.EmptyImageHaltsInOneStep : Prop :=
  ∀ (cfg : Config) (img : List Word) (s : State), boot cfg img = .next s →
    (img = [] ∨ ∃ w, img = [w] ∧ (opcodeField w = 0 ∨ opcodeField w = cfg.opc.code .stop)) →
    ∃ t, step s = .next t ∧ t.run = .halted ∧ t.pc = 1 ∧ (∀ r, readReg t r = 0) ∧ t.console = []

/-- R100, R101, R105: fetch, increment before execution, dispatch. -/
def Obligations.StepRunsTheDecodedInstruction : Prop :=
  ∀ (s : State) (w : Word) (i : Instr), fetches s w → decode s.cfg.opc w = .ok i →
    i.wellFormed = true ∧ step s = exec i { s with pc := s.pc + 1 }

/-- withFetchWord (log 8) places an instruction; memory, encoder and decoder agree. -/
def Obligations.PlacedInstructionRunsNext : Prop :=
  ∀ (s : State) (i : Instr), s.Inv → s.run = .running → inBounds s.cfg.memWords (sval s.pc) → i.wellFormed = true →
    (∀ ea, ea ≠ sval s.pc →
      memRead s.cfg.memWords (s.withFetchWord 32 (uval (encode s.cfg.opc i))).mem ea = memRead s.cfg.memWords s.mem ea) ∧
    step (s.withFetchWord 32 (uval (encode s.cfg.opc i))) =
      exec i { s.withFetchWord 32 (uval (encode s.cfg.opc i)) with pc := s.pc + 1 }

/-- R102: the fetch fault. -/
def Obligations.FetchOutOfBoundsFaults : Prop :=
  ∀ s : State, s.run = .running → (sval s.pc < 0 ∨ (s.cfg.memWords : Int) ≤ sval s.pc) →
    ∃ t, step s = .next t ∧ FaultsWith (.fetchOutOfBounds s.pc) s t

/-- R106: the invalid opcode. The second clause is of the spec's reference opcodes (R84, D2; log 4). -/
def Obligations.UnassignedOpcodeFaults : Prop :=
  (∀ (s : State) (w : Word), fetches s w → classOf s.cfg.opc (opcodeField w) = .invalid →
    ∃ t, step s = .next t ∧ FaultsWith (.invalidOpcode (opcodeField w)) { s with pc := s.pc + 1 } t) ∧
  (∀ op : Opcode, classOf OpcodeMap.reference op = .invalid ↔ 32 ≤ op.toNat)

/-- R35, R109: the execution loop. The names stoppedHalted and stoppedFaulted, by which step says that there is no
next state, are the model's (log 7, DEDUCED), no rule of the spec. -/
def Obligations.TerminalStatesHaveNoStep : Prop :=
  (∀ s : State, s.run ≠ .running → ∀ t, step s ≠ .next t) ∧
  (∀ s : State, s.run = .halted → step s = .fault .stoppedHalted) ∧
  (∀ (s : State) (r : FaultReason), s.run = .faulted r → step s = .fault (.stoppedFaulted r)) ∧
  (∀ (cfg : Config) (img : List Word) (s : State), boot cfg img = .next s → s.run = .running ∧ s.pc = 0)

/-- The invariant of Safety.lean: legal parameters (log 3) and canonical memory within MEM_WORDS (log 1). -/
def Obligations.InvariantKeptByEveryStep : Prop :=
  ∀ s t : State, s.Inv → step s = .next t → t.Inv ∧ t.cfg = s.cfg

/-- R108: precise faults. -/
def Obligations.FaultsArePrecise : Prop :=
  ∀ (s t : State) (r : FaultReason), step s = .next t → t.run = .faulted r →
    SameRegs s t ∧ SameMemory s t ∧ SameHost s t ∧
      t.pc = (match r with
        | .fetchOutOfBounds _ => s.pc
        | .invalidOpcode _ | .loadOutOfBounds _ | .storeOutOfBounds _ | .divideByZero => s.pc + 1)

/-- R211: every fault reason, its cause, its recorded value and its code. -/
def Obligations.FaultsRaisedExactlyForTheirCauses : Prop :=
  (∀ (s : State) (r : FaultReason), (∃ t, step s = .next t ∧ t.run = .faulted r) ↔ s.run = .running ∧
    (match r with
      | .invalidOpcode op => ∃ w, fetches s w ∧ op = opcodeField w ∧ classOf s.cfg.opc op = .invalid
      | .loadOutOfBounds ea => ∃ rd rs imm, runsNext s (.load rd rs imm) ∧ ea = sval (readReg s rs) + sval imm ∧
          (ea < 0 ∨ (s.cfg.memWords : Int) ≤ ea)
      | .storeOutOfBounds ea => ∃ rd rs imm, runsNext s (.store rd rs imm) ∧ ea = sval (readReg s rs) + sval imm ∧
          (ea < 0 ∨ (s.cfg.memWords : Int) ≤ ea)
      | .divideByZero => (∃ rd rs1 rs2, runsNext s (.div rd rs1 rs2) ∧ readReg s rs2 = 0) ∨
          ∃ rd rs imm, runsNext s (.divi rd rs imm) ∧ imm = 0
      | .fetchOutOfBounds p => p = s.pc ∧ (sval p < 0 ∨ (s.cfg.memWords : Int) ≤ sval p))) ∧
  (∀ op ea p, faultCode (.invalidOpcode op) = 1 ∧ faultCode (.loadOutOfBounds ea) = 2 ∧
    faultCode (.storeOutOfBounds ea) = 3 ∧ faultCode .divideByZero = 4 ∧ faultCode (.fetchOutOfBounds p) = 5)

/-- R111: the step is total on Running states whose SCALL input is available (awaitingInput is log 6). -/
def Obligations.RunningStepsAnswerUnlessInputIsAwaited : Prop :=
  ∀ s : State, s.run = .running →
    (¬ (runsNext s (.scall 0) ∧ s.hostInput = []) → ∃ t, step s = .next t) ∧
    (runsNext s (.scall 0) → s.hostInput = [] → step s = .fault .awaitingInput)

/-- R67: fetch and every instruction but STORE never change memory. -/
def Obligations.OnlyStoreChangesMemory : Prop :=
  ∀ (s t : State) (a : Nat), s.Inv → step s = .next t → t.mem.readByte a ≠ s.mem.readByte a →
    ∃ rd rs imm, runsNext s (.store rd rs imm) ∧ ((a / 4 : Nat) : Int) = effectiveAddress s rs imm

/-- R24: the writes column of the register table. -/
def Obligations.RegistersWrittenPerInstruction : Prop :=
  ∀ (i : Instr) (s t : State) (r : Reg), exec i s = .next t → readReg t r ≠ readReg s r →
    match i with
    | .stop | .store _ _ _ | .braz _ _ | .branz _ _ => False
    | .scall sel => sel = 0 ∧ r = s.cfg.ioReg
    | .add rd _ _ | .sub rd _ _ | .mul rd _ _ | .div rd _ _ | .and rd _ _ | .or rd _ _ | .xor rd _ _
    | .shl rd _ _ | .shr rd _ _ | .slt rd _ _ | .sle rd _ _ | .seq rd _ _ | .jmpr rd _ | .jmpi rd _
    | .addi rd _ _ | .subi rd _ _ | .muli rd _ _ | .divi rd _ _ | .andi rd _ _ | .ori rd _ _ | .xori rd _ _
    | .shli rd _ _ | .shri rd _ _ | .slti rd _ _ | .slei rd _ _ | .seqi rd _ _ | .load rd _ _ => r = rd

/-- R30: the pc after each step; the link of JMPR with rd = ra is R181's. -/
def Obligations.PcAfterEachInstruction : Prop :=
  ∀ s t : State, step s = .next t →
    (fetch s = none → t.pc = s.pc) ∧
    ∀ w, fetches s w → t.pc =
      match decode s.cfg.opc w with
      | .ok (.jmpr rd ra) => if rd = ra then s.pc + 1 else readReg s ra
      | .ok (.jmpi _ addr) => addr
      | .ok (.braz rs addr) => if readReg s rs = 0 then addr else s.pc + 1
      | .ok (.branz rs addr) => if readReg s rs ≠ 0 then addr else s.pc + 1
      | _ => s.pc + 1

/-- R34: the run state changes only by STOP, opcode 0 and faults. -/
def Obligations.RunStateChangesOnlyByStopAndFaults : Prop :=
  ∀ s t : State, step s = .next t →
    (t.run = .halted ↔ runsNext s .stop) ∧
    (t.run = .running ∨ t.run = .halted ∨ ∃ r, t.run = .faulted r)

/-- R38, R190: the console stream is an append-only record. -/
def Obligations.ConsoleGrowsAndIsNeverRead : Prop :=
  ∀ s t : State, step s = .next t → ∃ es,
    t.console = s.console ++ es ∧
    (es ≠ [] → ∃ sel, runsNext s (.scall sel) ∧ sel.toNat ≤ 3) ∧
    ∀ c, step { s with console := c } = .next { t with console := c ++ es }

/-- R100, R195: only SCALL with selector 0 reads a host input (hostInput is log 5). -/
def Obligations.HostInputMattersOnlyToSelectorZero : Prop :=
  ∀ (s t : State) (q : List Word), ¬ runsNext s (.scall 0) → step s = .next t →
    t.hostInput = s.hostInput ∧ step { s with hostInput := q } = .next { t with hostInput := q }

/-- R65: self-modifying code takes effect at once. -/
def Obligations.StoreIsSeenByTheNextFetch : Prop :=
  ∀ (s t : State) (rd rs : Reg) (imm : Word), s.Inv → runsNext s (.store rd rs imm) →
    inBounds s.cfg.memWords (effectiveAddress s rs imm) → step s = .next t →
    ∀ p : Word, sval p = effectiveAddress s rs imm → fetches { t with pc := p } (readReg s rd)

/-- R174: the bit pattern survives the round trip. -/
def Obligations.StoreThenLoadReturnsTheValue : Prop :=
  ∀ (s t : State) (rd rs rd' rs' : Reg) (imm imm' : Word), s.Inv →
    inBounds s.cfg.memWords (effectiveAddress s rs imm) → exec (.store rd rs imm) s = .next t →
    effectiveAddress t rs' imm' = effectiveAddress s rs imm →
    ∃ u, exec (.load rd' rs' imm') t = .next u ∧ WritesOnlyReg rd' (readReg s rd) t u

/-- R121, R122: ADD and ADDI. The opcode numbers are the spec's reference choice (R84, D2; log 4). -/
def Obligations.AddWritesTheWrappedSum : Prop :=
  (∀ (rd rs1 rs2 : Reg) (s : State), ∃ t, exec (.add rd rs1 rs2) s = .next t ∧
    WritesOnlyReg rd (wrap32 (sval (readReg s rs1) + sval (readReg s rs2))) s t) ∧
  (∀ (rd rs : Reg) (imm : Word) (s : State), ∃ t, exec (.addi rd rs imm) s = .next t ∧
    WritesOnlyReg rd (wrap32 (sval (readReg s rs) + sval imm)) s t) ∧
  (∀ opc rd rs1 rs2, encode opc (.add rd rs1 rs2) = encR (opc.code .add) rd rs1 rs2) ∧
  (∀ opc rd rs imm, encode opc (.addi rd rs imm) = encI (opc.code .addi) rd rs imm) ∧
  OpcodeMap.reference.code .add = 1 ∧ OpcodeMap.reference.code .addi = 2

/-- R123, R124: SUB and SUBI. The opcode numbers are the spec's reference choice (R84, D2; log 4). -/
def Obligations.SubWritesTheWrappedDifference : Prop :=
  (∀ (rd rs1 rs2 : Reg) (s : State), ∃ t, exec (.sub rd rs1 rs2) s = .next t ∧
    WritesOnlyReg rd (wrap32 (sval (readReg s rs1) - sval (readReg s rs2))) s t) ∧
  (∀ (rd rs : Reg) (imm : Word) (s : State), ∃ t, exec (.subi rd rs imm) s = .next t ∧
    WritesOnlyReg rd (wrap32 (sval (readReg s rs) - sval imm)) s t) ∧
  (∀ opc rd rs1 rs2, encode opc (.sub rd rs1 rs2) = encR (opc.code .sub) rd rs1 rs2) ∧
  (∀ opc rd rs imm, encode opc (.subi rd rs imm) = encI (opc.code .subi) rd rs imm) ∧
  OpcodeMap.reference.code .sub = 3 ∧ OpcodeMap.reference.code .subi = 4

/-- R125, R126: MUL and MULI. The opcode numbers are the spec's reference choice (R84, D2; log 4). -/
def Obligations.MulWritesTheWrappedProduct : Prop :=
  (∀ (rd rs1 rs2 : Reg) (s : State), ∃ t, exec (.mul rd rs1 rs2) s = .next t ∧
    WritesOnlyReg rd (wrap32 (sval (readReg s rs1) * sval (readReg s rs2))) s t) ∧
  (∀ (rd rs : Reg) (imm : Word) (s : State), ∃ t, exec (.muli rd rs imm) s = .next t ∧
    WritesOnlyReg rd (wrap32 (sval (readReg s rs) * sval imm)) s t) ∧
  (∀ opc rd rs1 rs2, encode opc (.mul rd rs1 rs2) = encR (opc.code .mul) rd rs1 rs2) ∧
  (∀ opc rd rs imm, encode opc (.muli rd rs imm) = encI (opc.code .muli) rd rs imm) ∧
  OpcodeMap.reference.code .mul = 5 ∧ OpcodeMap.reference.code .muli = 6

/-- R127, R128: DIV and DIVI. `Int.tdiv` rounds toward zero (R16). The opcode numbers are the spec's reference choice
(R84, D2; log 4). Rounding, fault and wrap are D15, D16, D17 (log 17, log 23, log 18). -/
def Obligations.DivWritesTheQuotientOrFaults : Prop :=
  (∀ (rd rs1 rs2 : Reg) (s : State), sval (readReg s rs2) ≠ 0 → ∃ t, exec (.div rd rs1 rs2) s = .next t ∧
    WritesOnlyReg rd (wrap32 (Int.tdiv (sval (readReg s rs1)) (sval (readReg s rs2)))) s t) ∧
  (∀ (rd rs : Reg) (imm : Word) (s : State), sval imm ≠ 0 → ∃ t, exec (.divi rd rs imm) s = .next t ∧
    WritesOnlyReg rd (wrap32 (Int.tdiv (sval (readReg s rs)) (sval imm))) s t) ∧
  (∀ (rd rs1 rs2 : Reg) (s : State), sval (readReg s rs2) = 0 → ∃ t, exec (.div rd rs1 rs2) s = .next t ∧
    FaultsWith .divideByZero s t) ∧
  (∀ (rd rs : Reg) (imm : Word) (s : State), sval imm = 0 → ∃ t, exec (.divi rd rs imm) s = .next t ∧
    FaultsWith .divideByZero s t) ∧
  (∀ opc rd rs1 rs2, encode opc (.div rd rs1 rs2) = encR (opc.code .div) rd rs1 rs2) ∧
  (∀ opc rd rs imm, encode opc (.divi rd rs imm) = encI (opc.code .divi) rd rs imm) ∧
  OpcodeMap.reference.code .div = 7 ∧ OpcodeMap.reference.code .divi = 8

/-- R141, R142: AND and ANDI. The opcode numbers are the spec's reference choice (R84, D2; log 4). -/
def Obligations.AndWritesTheBitwiseAnd : Prop :=
  (∀ (rd rs1 rs2 : Reg) (s : State), ∃ t, exec (.and rd rs1 rs2) s = .next t ∧
    WritesOnlyReg rd (readReg s rs1 &&& readReg s rs2) s t) ∧
  (∀ (rd rs : Reg) (imm : Word) (s : State), ∃ t, exec (.andi rd rs imm) s = .next t ∧
    WritesOnlyReg rd (readReg s rs &&& imm) s t) ∧
  (∀ opc rd rs1 rs2, encode opc (.and rd rs1 rs2) = encR (opc.code .and) rd rs1 rs2) ∧
  (∀ opc rd rs imm, encode opc (.andi rd rs imm) = encI (opc.code .andi) rd rs imm) ∧
  OpcodeMap.reference.code .and = 9 ∧ OpcodeMap.reference.code .andi = 10

/-- R143, R144: OR and ORI. The opcode numbers are the spec's reference choice (R84, D2; log 4). -/
def Obligations.OrWritesTheBitwiseOr : Prop :=
  (∀ (rd rs1 rs2 : Reg) (s : State), ∃ t, exec (.or rd rs1 rs2) s = .next t ∧
    WritesOnlyReg rd (readReg s rs1 ||| readReg s rs2) s t) ∧
  (∀ (rd rs : Reg) (imm : Word) (s : State), ∃ t, exec (.ori rd rs imm) s = .next t ∧
    WritesOnlyReg rd (readReg s rs ||| imm) s t) ∧
  (∀ opc rd rs1 rs2, encode opc (.or rd rs1 rs2) = encR (opc.code .or) rd rs1 rs2) ∧
  (∀ opc rd rs imm, encode opc (.ori rd rs imm) = encI (opc.code .ori) rd rs imm) ∧
  OpcodeMap.reference.code .or = 11 ∧ OpcodeMap.reference.code .ori = 12

/-- R145, R146: XOR and XORI. The opcode numbers are the spec's reference choice (R84, D2; log 4). -/
def Obligations.XorWritesTheBitwiseExclusiveOr : Prop :=
  (∀ (rd rs1 rs2 : Reg) (s : State), ∃ t, exec (.xor rd rs1 rs2) s = .next t ∧
    WritesOnlyReg rd (readReg s rs1 ^^^ readReg s rs2) s t) ∧
  (∀ (rd rs : Reg) (imm : Word) (s : State), ∃ t, exec (.xori rd rs imm) s = .next t ∧
    WritesOnlyReg rd (readReg s rs ^^^ imm) s t) ∧
  (∀ opc rd rs1 rs2, encode opc (.xor rd rs1 rs2) = encR (opc.code .xor) rd rs1 rs2) ∧
  (∀ opc rd rs imm, encode opc (.xori rd rs imm) = encI (opc.code .xori) rd rs imm) ∧
  OpcodeMap.reference.code .xor = 13 ∧ OpcodeMap.reference.code .xori = 14

/-- R147, R148: SHL and SHLI, by the amount rule of R140 (D18, log 19). The opcode numbers are the spec's reference
choice (R84, D2; log 4). -/
def Obligations.ShlShiftsLeftAndSaturates : Prop :=
  (∀ (rd rs1 rs2 : Reg) (s : State), ∃ t, exec (.shl rd rs1 rs2) s = .next t ∧
    WritesOnlyReg rd (if 32 ≤ uval (readReg s rs2) then 0 else wrap32 ((uval (readReg s rs1) * 2 ^ uval (readReg s rs2) : Nat) : Int)) s t) ∧
  (∀ (rd rs : Reg) (imm : Word) (s : State), ∃ t, exec (.shli rd rs imm) s = .next t ∧
    WritesOnlyReg rd (if 32 ≤ uval (imm) then 0 else wrap32 ((uval (readReg s rs) * 2 ^ uval (imm) : Nat) : Int)) s t) ∧
  (∀ opc rd rs1 rs2, encode opc (.shl rd rs1 rs2) = encR (opc.code .shl) rd rs1 rs2) ∧
  (∀ opc rd rs imm, encode opc (.shli rd rs imm) = encI (opc.code .shli) rd rs imm) ∧
  OpcodeMap.reference.code .shl = 15 ∧ OpcodeMap.reference.code .shli = 16

/-- R149, R150: SHR and SHRI, by the amount rule of R140 (D18, log 19). The opcode numbers are the spec's reference
choice (R84, D2; log 4). -/
def Obligations.ShrShiftsRightAndSaturates : Prop :=
  (∀ (rd rs1 rs2 : Reg) (s : State), ∃ t, exec (.shr rd rs1 rs2) s = .next t ∧
    WritesOnlyReg rd (if 32 ≤ uval (readReg s rs2) then 0 else wrap32 ((uval (readReg s rs1) / 2 ^ uval (readReg s rs2) : Nat) : Int)) s t) ∧
  (∀ (rd rs : Reg) (imm : Word) (s : State), ∃ t, exec (.shri rd rs imm) s = .next t ∧
    WritesOnlyReg rd (if 32 ≤ uval (imm) then 0 else wrap32 ((uval (readReg s rs) / 2 ^ uval (imm) : Nat) : Int)) s t) ∧
  (∀ opc rd rs1 rs2, encode opc (.shr rd rs1 rs2) = encR (opc.code .shr) rd rs1 rs2) ∧
  (∀ opc rd rs imm, encode opc (.shri rd rs imm) = encI (opc.code .shri) rd rs imm) ∧
  OpcodeMap.reference.code .shr = 17 ∧ OpcodeMap.reference.code .shri = 18

/-- R161, R162: SLT and SLTI (signed: D19, log 20). The opcode numbers are the spec's reference choice (R84, D2; log
4). -/
def Obligations.SltComparesSigned : Prop :=
  (∀ (rd rs1 rs2 : Reg) (s : State), ∃ t, exec (.slt rd rs1 rs2) s = .next t ∧
    WritesOnlyReg rd (if sval (readReg s rs1) < sval (readReg s rs2) then 1 else 0) s t) ∧
  (∀ (rd rs : Reg) (imm : Word) (s : State), ∃ t, exec (.slti rd rs imm) s = .next t ∧
    WritesOnlyReg rd (if sval (readReg s rs) < sval imm then 1 else 0) s t) ∧
  (∀ opc rd rs1 rs2, encode opc (.slt rd rs1 rs2) = encR (opc.code .slt) rd rs1 rs2) ∧
  (∀ opc rd rs imm, encode opc (.slti rd rs imm) = encI (opc.code .slti) rd rs imm) ∧
  OpcodeMap.reference.code .slt = 19 ∧ OpcodeMap.reference.code .slti = 20

/-- R163, R164: SLE and SLEI (signed: D19, log 20). The opcode numbers are the spec's reference choice (R84, D2; log
4). -/
def Obligations.SleComparesSigned : Prop :=
  (∀ (rd rs1 rs2 : Reg) (s : State), ∃ t, exec (.sle rd rs1 rs2) s = .next t ∧
    WritesOnlyReg rd (if sval (readReg s rs1) ≤ sval (readReg s rs2) then 1 else 0) s t) ∧
  (∀ (rd rs : Reg) (imm : Word) (s : State), ∃ t, exec (.slei rd rs imm) s = .next t ∧
    WritesOnlyReg rd (if sval (readReg s rs) ≤ sval imm then 1 else 0) s t) ∧
  (∀ opc rd rs1 rs2, encode opc (.sle rd rs1 rs2) = encR (opc.code .sle) rd rs1 rs2) ∧
  (∀ opc rd rs imm, encode opc (.slei rd rs imm) = encI (opc.code .slei) rd rs imm) ∧
  OpcodeMap.reference.code .sle = 21 ∧ OpcodeMap.reference.code .slei = 22

/-- R165, R166: SEQ and SEQI. The opcode numbers are the spec's reference choice (R84, D2; log 4). -/
def Obligations.SeqComparesPatterns : Prop :=
  (∀ (rd rs1 rs2 : Reg) (s : State), ∃ t, exec (.seq rd rs1 rs2) s = .next t ∧
    WritesOnlyReg rd (if readReg s rs1 = readReg s rs2 then 1 else 0) s t) ∧
  (∀ (rd rs : Reg) (imm : Word) (s : State), ∃ t, exec (.seqi rd rs imm) s = .next t ∧
    WritesOnlyReg rd (if readReg s rs = imm then 1 else 0) s t) ∧
  (∀ opc rd rs1 rs2, encode opc (.seq rd rs1 rs2) = encR (opc.code .seq) rd rs1 rs2) ∧
  (∀ opc rd rs imm, encode opc (.seqi rd rs imm) = encI (opc.code .seqi) rd rs imm) ∧
  OpcodeMap.reference.code .seq = 23 ∧ OpcodeMap.reference.code .seqi = 24

/-- R129: ADD, SUB and MUL do not depend on the reading. -/
def Obligations.LowBitsDoNotDependOnSignedness : Prop :=
  ∀ a b : Word,
    wrap32 (sval a + sval b) = wrap32 ((uval a : Int) + uval b) ∧ wrap32 (sval a + sval b) = a + b ∧
    wrap32 (sval a - sval b) = wrap32 ((uval a : Int) - uval b) ∧ wrap32 (sval a - sval b) = a - b ∧
    wrap32 (sval a * sval b) = wrap32 ((uval a : Int) * uval b) ∧ wrap32 (sval a * sval b) = a * b

/-- R16, R131: the division law. -/
def Obligations.QuotientRoundsTowardZero : Prop :=
  ∀ a b : Word, sval b ≠ 0 → ∃ q, alu .div a b = .ok q ∧
    (sval a = -2 ^ 31 → sval b = -1 → sval q = -2 ^ 31) ∧
    (¬ (sval a = -2 ^ 31 ∧ sval b = -1) →
      |sval a - sval q * sval b| < |sval b| ∧
      (0 ≤ sval a → 0 ≤ sval a - sval q * sval b) ∧ (sval a ≤ 0 → sval a - sval q * sval b ≤ 0))

/-- R140, bit by bit. -/
def Obligations.ShiftsMoveBits : Prop :=
  ∀ a b : Word, ∃ l r, alu .shl a b = .ok l ∧ alu .shr a b = .ok r ∧ ∀ k, k < 32 →
    l.getLsbD k = (decide (uval b ≤ k) && a.getLsbD (k - uval b)) ∧
    r.getLsbD k = (decide (k + uval b < 32) && a.getLsbD (k + uval b))

/-- R171 (with the address of R170): LOAD. The opcode numbers are the spec's reference choice (R84, D2; log 4). -/
def Obligations.LoadReadsTheWordOrFaults : Prop :=
  (∀ (rs : Reg) (imm : Word) (s : State), effectiveAddress s rs imm = sval (readReg s rs) + sval imm) ∧
  (∀ (rd rs : Reg) (imm : Word) (s : State), inBounds s.cfg.memWords (effectiveAddress s rs imm) →
    ∃ v t, memRead s.cfg.memWords s.mem (effectiveAddress s rs imm) = some v ∧
      exec (.load rd rs imm) s = .next t ∧ WritesOnlyReg rd v s t) ∧
  (∀ (rd rs : Reg) (imm : Word) (s : State),
    (effectiveAddress s rs imm < 0 ∨ (s.cfg.memWords : Int) ≤ effectiveAddress s rs imm) →
    ∃ t, exec (.load rd rs imm) s = .next t ∧ FaultsWith (.loadOutOfBounds (effectiveAddress s rs imm)) s t) ∧
  (∀ opc rd rs imm, encode opc (.load rd rs imm) = encI (opc.code .load) rd rs imm) ∧
  OpcodeMap.reference.code .load = 25

/-- R172 (with the address of R170): STORE and its frame. The opcode numbers are the spec's reference choice (R84, D2;
log 4). -/
def Obligations.StoreWritesTheWordOrFaults : Prop :=
  (∀ (rd rs : Reg) (imm : Word) (s : State), s.mem.wf → inBounds s.cfg.memWords (effectiveAddress s rs imm) →
    ∃ t, exec (.store rd rs imm) s = .next t ∧
      memRead s.cfg.memWords t.mem (effectiveAddress s rs imm) = some (readReg s rd) ∧
      (∀ a : Nat, ((a / 4 : Nat) : Int) ≠ effectiveAddress s rs imm → t.mem.readByte a = s.mem.readByte a) ∧
      SameRegs s t ∧ t.pc = s.pc ∧ t.run = s.run ∧ SameHost s t) ∧
  (∀ (rd rs : Reg) (imm : Word) (s : State),
    (effectiveAddress s rs imm < 0 ∨ (s.cfg.memWords : Int) ≤ effectiveAddress s rs imm) →
    ∃ t, exec (.store rd rs imm) s = .next t ∧ FaultsWith (.storeOutOfBounds (effectiveAddress s rs imm)) s t) ∧
  (∀ (rs : Reg) (imm : Word) (s : State), effectiveAddress s rs imm = sval (readReg s rs) + sval imm) ∧
  (∀ opc rd rs imm, encode opc (.store rd rs imm) = encI (opc.code .store) rd rs imm) ∧
  OpcodeMap.reference.code .store = 26

/-- R181: JMPR. With rd = ra the jump falls through: decision D20 (log 21). The opcode numbers are the spec's
reference choice (R84, D2; log 4). -/
def Obligations.JmprLinksThenJumps : Prop :=
  (∀ (rd ra : Reg) (s : State), ∃ t, exec (.jmpr rd ra) s = .next t ∧ readReg t rd = s.pc ∧
    t.pc = (if rd = ra then s.pc else readReg s ra) ∧
    SameRegsBut rd s t ∧ SameMemory s t ∧ t.run = s.run ∧ SameHost s t ∧
    (s.run = .running → (sval t.pc < 0 ∨ (s.cfg.memWords : Int) ≤ sval t.pc) →
      ∃ u, step t = .next u ∧ FaultsWith (.fetchOutOfBounds t.pc) t u)) ∧
  (∀ opc rd ra, encode opc (.jmpr rd ra) = encJR (opc.code .jmpr) rd ra) ∧
  OpcodeMap.reference.code .jmpr = 27

/-- R182: JMPI. The opcode numbers are the spec's reference choice (R84, D2; log 4). -/
def Obligations.JmpiLinksThenJumps : Prop :=
  (∀ (rd : Reg) (addr : Word) (s : State), ∃ t, exec (.jmpi rd addr) s = .next t ∧ readReg t rd = s.pc ∧ t.pc = addr ∧
    SameRegsBut rd s t ∧ SameMemory s t ∧ t.run = s.run ∧ SameHost s t ∧
    (s.run = .running → (sval t.pc < 0 ∨ (s.cfg.memWords : Int) ≤ sval t.pc) →
      ∃ u, step t = .next u ∧ FaultsWith (.fetchOutOfBounds t.pc) t u)) ∧
  (∀ opc rd addr, encode opc (.jmpi rd addr) = encJI (opc.code .jmpi) rd addr) ∧
  OpcodeMap.reference.code .jmpi = 28

/-- R183: BRAZ. The absolute target is D6 (log 16). The opcode numbers are the spec's reference choice (R84, D2; log
4). -/
def Obligations.BrazBranchesOnZero : Prop :=
  (∀ (rs : Reg) (addr : Word) (s : State), ∃ t, exec (.braz rs addr) s = .next t ∧
    t.pc = (if readReg s rs = 0 then addr else s.pc) ∧
    SameRegs s t ∧ SameMemory s t ∧ t.run = s.run ∧ SameHost s t ∧
    (s.run = .running → (sval t.pc < 0 ∨ (s.cfg.memWords : Int) ≤ sval t.pc) →
      ∃ u, step t = .next u ∧ FaultsWith (.fetchOutOfBounds t.pc) t u)) ∧
  (∀ opc rs addr, encode opc (.braz rs addr) = encB (opc.code .braz) rs addr) ∧
  OpcodeMap.reference.code .braz = 29

/-- R184: BRANZ. The absolute target is D6 (log 16). The opcode numbers are the spec's reference choice (R84, D2; log
4). -/
def Obligations.BranzBranchesOnNonzero : Prop :=
  (∀ (rs : Reg) (addr : Word) (s : State), ∃ t, exec (.branz rs addr) s = .next t ∧
    t.pc = (if readReg s rs ≠ 0 then addr else s.pc) ∧
    SameRegs s t ∧ SameMemory s t ∧ t.run = s.run ∧ SameHost s t ∧
    (s.run = .running → (sval t.pc < 0 ∨ (s.cfg.memWords : Int) ≤ sval t.pc) →
      ∃ u, step t = .next u ∧ FaultsWith (.fetchOutOfBounds t.pc) t u)) ∧
  (∀ opc rs addr, encode opc (.branz rs addr) = encB (opc.code .branz) rs addr) ∧
  OpcodeMap.reference.code .branz = 30

/-- R103: STOP and opcode 0. -/
def Obligations.StopHalts : Prop :=
  (∀ s : State, ∃ t, exec .stop s = .next t ∧ t.run = .halted ∧ t.pc = s.pc ∧
    SameRegs s t ∧ SameMemory s t ∧ SameHost s t) ∧
  (∀ (opc : OpcodeMap) (w : Word), opcodeField w = opc.code .stop ∨ opcodeField w = 0 → decode opc w = .ok .stop) ∧
  ∀ p : Parameters, exitStatus p .halted = some 0

/-- R194: selector 0 (the waiting integers are log 5). -/
def Obligations.ScallZeroReadsAnInteger : Prop :=
  ∀ (s : State) (v : Word) (rest : List Word), s.hostInput = v :: rest →
    ∃ t, exec (.scall 0) s = .next t ∧ readReg t s.cfg.ioReg = v ∧
      t.console = s.console ++ [.prompt, .input v] ∧ t.hostInput = rest ∧
      SameRegsBut s.cfg.ioReg s t ∧ t.pc = s.pc ∧ SameMemory s t ∧ t.run = s.run ∧ t.cfg = s.cfg

/-- R195: no step is enabled until the host supplies an integer (awaitingInput and hostInput are log 6, log 5). -/
def Obligations.ScallZeroWaitsForTheHost : Prop :=
  ∀ (s : State) (v : Word), s.hostInput = [] →
    exec (.scall 0) s = .fault .awaitingInput ∧ supplyInput s v = { s with hostInput := [v] } ∧
    ∃ t, exec (.scall 0) (supplyInput s v) = .next t ∧ readReg t s.cfg.ioReg = v ∧ t.hostInput = []

/-- R196, R197, R198: the output selectors. -/
def Obligations.ScallOutputSelectorsEmitOneEvent : Prop :=
  ∀ s : State, ∀ p ∈ [((1 : BitVec 26), ConsoleEvent.labeled (readReg s s.cfg.ioReg)),
      (2, .decimal (readReg s s.cfg.ioReg)), (3, .char (BitVec.ofNat 7 (uval (readReg s s.cfg.ioReg))))],
    ∃ t, exec (.scall p.1) s = .next t ∧ t.console = s.console ++ [p.2] ∧
      SameRegs s t ∧ t.pc = s.pc ∧ SameMemory s t ∧ t.run = s.run ∧ t.hostInput = s.hostInput ∧ t.cfg = s.cfg

/-- R199: an unrecognized selector is a no-op. -/
def Obligations.ScallUnrecognizedSelectorDoesNothing : Prop :=
  ∀ (s : State) (sel : BitVec 26), 4 ≤ sel.toNat → exec (.scall sel) s = .next s

/-- R190, R191: the syscall handler's interface. -/
def Obligations.SyscallTouchesOnlyIoRegisterAndConsole : Prop :=
  ∀ (sel : BitVec 26) (s : State) (hostIn : Option Word),
    (syscall sel s hostIn = none ↔ sel = 0 ∧ hostIn = none) ∧
    ∀ t, syscall sel s hostIn = some t →
      SameRegsBut s.cfg.ioReg s t ∧ t.pc = s.pc ∧ t.mem = s.mem ∧ t.run = s.run ∧ t.cfg = s.cfg ∧
      t.hostInput = s.hostInput ∧ ∃ es, t.console = s.console ++ es

/-- R219: the exit status; EXIT_FAULT is any nonzero parameter (R9, log 9). -/
def Obligations.ExitStatusOfTerminalStates : Prop :=
  ∀ p : Parameters, p.Valid →
    exitStatus p .running = none ∧ exitStatus p .halted = some 0 ∧
    ∀ r, exitStatus p (.faulted r) = some p.exitFault ∧ exitStatus p (.faulted r) ≠ some 0
end

