-- ==== Sys2Proof/Laws/Decode.lean ====
section
/-! SUPPORT. The fields of an encoded word, and what the dispatch table and the decoder can answer. -/

namespace Sys2Proof

/-! ## Extracting a placed field -/

theorem extract_place_self {n : Nat} (f : BitVec n) (lo : Nat) (h : lo + n ≤ 32) :
    (place f lo).extractLsb' lo n = f := by
  apply BitVec.eq_of_getLsbD_eq
  intro k hk
  simp only [place, BitVec.getLsbD_extractLsb', BitVec.getLsbD_shiftLeft, BitVec.getLsbD_setWidth]
  have h1 : lo + k < 32 := by omega
  have h2 : ¬ lo + k < lo := by omega
  have h3 : lo + k - lo = k := by omega
  have h4 : k < 32 := by omega
  simp [h1, h2, h3, h4, hk]

theorem extract_place_of_disjoint {n : Nat} (f : BitVec n) (lo lo' n' : Nat) (h : lo' + n' ≤ lo ∨ lo + n ≤ lo') :
    (place f lo).extractLsb' lo' n' = 0 := by
  apply BitVec.eq_of_getLsbD_eq
  intro k hk
  simp only [place, BitVec.getLsbD_extractLsb', BitVec.getLsbD_shiftLeft, BitVec.getLsbD_setWidth]
  rcases h with h | h
  · have h1 : lo' + k < lo := by omega
    simp [h1]
  · rw [BitVec.getLsbD_of_ge f _ (by omega)]
    simp

theorem extractLsb'_or (a b : Word) (lo n : Nat) :
    (a ||| b).extractLsb' lo n = a.extractLsb' lo n ||| b.extractLsb' lo n := by
  apply BitVec.eq_of_getLsbD_eq
  intro k hk
  simp [hk]

/-- A register field is the register whose five bits it holds. -/
theorem regField_of_extract {lo : Nat} {w : Word} {r : Reg} (h : w.extractLsb' lo 5 = BitVec.ofNat 5 r.val) :
    regField lo w = r := by
  unfold regField
  rw [h]
  apply Fin.ext
  have := r.isLt
  simp [Fin.ofNat]

/-! ## Values that fit their fields -/

/-- An immediate in range is the sign extension of its low 16 bits (R74). -/
theorem sext32_of_fits {imm : Word} (h : ImmFits imm) : sext32 (imm.setWidth 16) = imm := by
  obtain ⟨h1, h2⟩ := h
  apply BitVec.eq_of_toInt_eq
  unfold sext32
  rw [BitVec.toInt_signExtend_of_le (by omega)]
  simp only [sval] at h1 h2
  have hi := imm.isLt
  rw [BitVec.toInt_eq_toNat_cond, BitVec.toInt_eq_toNat_cond] at *
  simp only [BitVec.toNat_setWidth] at *
  split at h1 <;> split <;> omega

/-- An address in range is the zero extension of its low `n` bits (R76, R77). -/
theorem zext32_of_fits {n : Nat} {addr : Word} (h : uval addr < 2 ^ n) : zext32 (addr.setWidth n) = addr := by
  apply BitVec.eq_of_toNat_eq
  have := addr.isLt
  simp only [zext32, BitVec.toNat_setWidth, uval] at *
  rw [Nat.mod_eq_of_lt h, Nat.mod_eq_of_lt this]

/-! ## The fields of each format (R90) -/

theorem fields_encR (o : Opcode) (rd rs1 rs2 : Reg) :
    opcodeField (encR o rd rs1 rs2) = o ∧ field25 (encR o rd rs1 rs2) = rd ∧
      field20 (encR o rd rs1 rs2) = rs1 ∧ field15 (encR o rd rs1 rs2) = rs2 := by
  refine ⟨?_, regField_of_extract ?_, regField_of_extract ?_, regField_of_extract ?_⟩ <;>
  simp [opcodeField, encR, placeReg, extractLsb'_or, extract_place_self, extract_place_of_disjoint]

theorem fields_encI (o : Opcode) (rd rs : Reg) (imm : Word) (h : ImmFits imm) :
    opcodeField (encI o rd rs imm) = o ∧ field25 (encI o rd rs imm) = rd ∧
      field20 (encI o rd rs imm) = rs ∧ immField (encI o rd rs imm) = imm := by
  refine ⟨?_, regField_of_extract ?_, regField_of_extract ?_, ?_⟩
  case refine_4 =>
    have e : (encI o rd rs imm).extractLsb' 0 16 = imm.setWidth 16 := by
      simp [encI, placeReg, extractLsb'_or, extract_place_self, extract_place_of_disjoint]
    rw [immField, e, sext32_of_fits h]
  all_goals simp [opcodeField, encI, placeReg, extractLsb'_or, extract_place_self, extract_place_of_disjoint]

theorem fields_encJR (o : Opcode) (rd ra : Reg) :
    opcodeField (encJR o rd ra) = o ∧ field25 (encJR o rd ra) = rd ∧ field20 (encJR o rd ra) = ra := by
  refine ⟨?_, regField_of_extract ?_, regField_of_extract ?_⟩ <;>
  simp [opcodeField, encJR, placeReg, extractLsb'_or, extract_place_self, extract_place_of_disjoint]

theorem fields_encJI (o : Opcode) (rd : Reg) (addr : Word) (h : JumpAddrFits addr) :
    opcodeField (encJI o rd addr) = o ∧ field25 (encJI o rd addr) = rd ∧ jumpAddrField (encJI o rd addr) = addr := by
  refine ⟨?_, regField_of_extract ?_, ?_⟩
  case refine_3 =>
    have e : (encJI o rd addr).extractLsb' 0 21 = addr.setWidth 21 := by
      simp [encJI, placeReg, extractLsb'_or, extract_place_self, extract_place_of_disjoint]
    rw [jumpAddrField, e, zext32_of_fits h]
  all_goals simp [opcodeField, encJI, placeReg, extractLsb'_or, extract_place_self, extract_place_of_disjoint]

theorem fields_encB (o : Opcode) (rs : Reg) (addr : Word) (h : BranchAddrFits addr) :
    opcodeField (encB o rs addr) = o ∧ field25 (encB o rs addr) = rs ∧ branchAddrField (encB o rs addr) = addr := by
  refine ⟨?_, regField_of_extract ?_, ?_⟩
  case refine_3 =>
    have e : (encB o rs addr).extractLsb' 0 17 = addr.setWidth 17 := by
      simp [encB, placeReg, extractLsb'_or, extract_place_self, extract_place_of_disjoint]
    rw [branchAddrField, e, zext32_of_fits h]
  all_goals simp [opcodeField, encB, placeReg, extractLsb'_or, extract_place_self, extract_place_of_disjoint]

theorem fields_encS (o : Opcode) (sel : BitVec 26) : opcodeField (encS o sel) = o ∧ selField (encS o sel) = sel := by
  constructor <;> simp [opcodeField, selField, encS, extractLsb'_or, extract_place_self, extract_place_of_disjoint]

theorem opcodeField_encN (o : Opcode) : opcodeField (encN o) = o := by
  simp [opcodeField, encN, extract_place_self]

/-! ## The dispatch table and the decoder -/

theorem Mnemonic.mem_assigned (m : Mnemonic) (h : m ≠ .stop) : m ∈ Mnemonic.assigned := by
  revert h; cases m <;> decide

theorem Mnemonic.ne_stop_of_assigned {m : Mnemonic} (h : m ∈ Mnemonic.assigned) : m ≠ .stop := by
  rintro rfl; revert h; decide

/-- What the dispatch table can answer (R85). -/
theorem classOf_cases (opc : OpcodeMap) (op : Opcode) :
    ((op = 0 ∨ op = opc.code .stop) ∧ classOf opc op = .halt) ∨
    (op ≠ 0 ∧ op ≠ opc.code .stop ∧
      ((∃ m ∈ Mnemonic.assigned, opc.code m = op ∧ classOf opc op = .exec m (typeOf m)) ∨
       ((∀ m ∈ Mnemonic.assigned, opc.code m ≠ op) ∧ classOf opc op = .invalid))) := by
  by_cases h : op = 0 ∨ op = opc.code .stop
  · exact .inl ⟨h, by rw [classOf, if_pos h]⟩
  · refine .inr ⟨fun e => h (.inl e), fun e => h (.inr e), ?_⟩
    rw [classOf, if_neg h]
    cases hf : Mnemonic.assigned.find? (fun m => decide (opc.code m = op)) with
    | some m => exact .inl ⟨m, List.mem_of_find?_eq_some hf, by simpa using List.find?_some hf, rfl⟩
    | none => exact .inr ⟨fun m hm => by simpa using List.find?_eq_none.mp hf m hm, rfl⟩

/-- What the decoder can answer. -/
theorem decode_cases (opc : OpcodeMap) (w : Word) :
    ((opcodeField w = 0 ∨ opcodeField w = opc.code .stop) ∧ decode opc w = .ok .stop) ∨
    (∃ m ∈ Mnemonic.assigned, opc.code m = opcodeField w ∧ decode opc w = .ok (instrOf m w)) ∨
    ((∀ m ∈ Mnemonic.assigned, opc.code m ≠ opcodeField w) ∧ opcodeField w ≠ 0 ∧ opcodeField w ≠ opc.code .stop ∧
      decode opc w = .error (.invalidOpcode (opcodeField w))) := by
  rcases classOf_cases opc (opcodeField w) with ⟨h, e⟩ | ⟨h0, hs, ⟨m, hm, hc, e⟩ | ⟨hn, e⟩⟩
  · exact .inl ⟨h, by simp [decode, e]⟩
  · exact .inr (.inl ⟨m, hm, hc, by simp [decode, e]⟩)
  · exact .inr (.inr ⟨hn, h0, hs, by simp [decode, e]⟩)

/-- The decoder reads the fields of the type its mnemonic has (R80, R105). -/
theorem fields_instrOf (m : Mnemonic) (w : Word) : (instrOf m w).fields = decodeFields w (typeOf m) := by
  cases m <;> rfl

theorem mnemonic_instrOf (m : Mnemonic) (w : Word) : (instrOf m w).mnemonic = m := by
  cases m <;> rfl

/-- The reference assignment satisfies R10. -/
theorem reference_opc_valid : OpcodeMap.reference.Valid := by decide

/-- The reference parameters satisfy R10. -/
theorem reference_valid : Config.reference.Valid := ⟨by decide, by decide, reference_opc_valid⟩

end Sys2Proof
end

