-- ==== Sys2Proof/Laws/Memory.lean ====
section
/-! SUPPORT. The memory operations: read after write, and that each keeps the canonical form and the memory's bound. -/

namespace Sys2Proof.Machine

/-! ## Listed bytes -/

@[simp] theorem Memory.readByte_nil (a : Nat) : Memory.readByte [] a = Memory.unlisted := rfl

theorem Memory.readByte_cons (p : Host.Cell) (m : Memory) (a : Nat) :
    Memory.readByte (p :: m) a = if p.1 = a then p.2 else Memory.readByte m a := rfl

/-- A byte below every listed address reads as an unlisted byte. -/
theorem Memory.readByte_of_lt (m : Memory) (a : Nat) (h : ∀ p ∈ m, a < p.1) :
    Memory.readByte m a = Memory.unlisted := by
  induction m with
  | nil => rfl
  | cons p m ih =>
    have hp := h p (by simp)
    rw [Memory.readByte_cons, if_neg (by omega)]
    exact ih fun q hq => h q (by simp [hq])

/-- A byte that is not listed keeps its address free after a write elsewhere. -/
theorem Memory.mem_writeByte (m : Memory) (a : Nat) (v : Byte) (p : Host.Cell)
    (h : p ∈ Memory.writeByte m a v) : p ∈ m ∨ (p = (a, v) ∧ v ≠ Memory.unlisted) := by
  induction m with
  | nil =>
    simp only [Memory.writeByte] at h
    split at h
    · simp at h
    · next hv => exact .inr ⟨by simpa using h, hv⟩
  | cons q m ih =>
    obtain ⟨b, u⟩ := q
    simp only [Memory.writeByte] at h
    split at h
    · rcases List.mem_cons.mp h with h | h
      · exact .inl (by simp [h])
      · rcases ih h with h | h
        · exact .inl (by simp [h])
        · exact .inr h
    · split at h
      · split at h
        · exact .inl (by simp [h])
        · next hv =>
          rcases List.mem_cons.mp h with h | h
          · exact .inr ⟨h, hv⟩
          · exact .inl (by simp [h])
      · split at h
        · exact .inl h
        · next hv =>
          rcases List.mem_cons.mp h with h | h
          · exact .inr ⟨h, hv⟩
          · exact .inl h

theorem Memory.wf_nil : Memory.wf [] := by simp [Memory.wf]

theorem Memory.wf_cons (p : Host.Cell) (m : Memory) :
    Memory.wf (p :: m) ↔ (∀ q ∈ m, p.1 < q.1) ∧ p.2 ≠ Memory.unlisted ∧ Memory.wf m := by
  simp only [Memory.wf, List.pairwise_cons, List.forall_mem_cons]
  tauto

/-- Writing a byte keeps the canonical form. -/
theorem Memory.wf_writeByte (m : Memory) (a : Nat) (v : Byte) (h : Memory.wf m) :
    Memory.wf (Memory.writeByte m a v) := by
  induction m with
  | nil =>
    simp only [Memory.writeByte]
    split
    · exact Memory.wf_nil
    · next hv => exact (Memory.wf_cons _ _).mpr ⟨by simp, hv, Memory.wf_nil⟩
  | cons p m ih =>
    obtain ⟨b, u⟩ := p
    obtain ⟨hlt, hu, hm⟩ := (Memory.wf_cons _ _).mp h
    simp only [Memory.writeByte]
    split
    · next hba =>
      refine (Memory.wf_cons _ _).mpr ⟨fun q hq => ?_, hu, ih hm⟩
      rcases Memory.mem_writeByte m a v q hq with hq | ⟨rfl, _⟩
      · exact hlt q hq
      · exact hba
    · split
      · next hba =>
        subst hba
        split
        · exact hm
        · next hv => exact (Memory.wf_cons _ _).mpr ⟨hlt, hv, hm⟩
      · split
        · exact h
        · next hnlt hne hv =>
          refine (Memory.wf_cons _ _).mpr ⟨fun q hq => ?_, hv, h⟩
          have hab : a < b := by omega
          rcases List.mem_cons.mp hq with rfl | hq
          · exact hab
          · exact lt_trans hab (hlt q hq)

/-- Writing a byte inside the bound keeps the bound. -/
theorem Memory.within_writeByte (n : Nat) (m : Memory) (a : Nat) (v : Byte) (ha : a < 4 * n)
    (h : Memory.within n m) : Memory.within n (Memory.writeByte m a v) := by
  intro p hp
  rcases Memory.mem_writeByte m a v p hp with hp | ⟨rfl, _⟩
  · exact h p hp
  · exact ha

/-- Everything a byte write does to the reads of a canonical memory. -/
theorem Memory.readByte_writeByte (m : Memory) (a b : Nat) (v : Byte) (h : Memory.wf m) :
    Memory.readByte (Memory.writeByte m a v) b = if b = a then v else Memory.readByte m b := by
  induction m with
  | nil =>
    simp only [Memory.writeByte]
    split
    · next hv => simp [hv]
    · simp [Memory.readByte_cons, eq_comm]
  | cons p m ih =>
    obtain ⟨c, u⟩ := p
    obtain ⟨hlt, hu, hm⟩ := (Memory.wf_cons _ _).mp h
    simp only [Memory.writeByte]
    split
    · next hca =>
      simp only [Memory.readByte_cons, ih hm]
      split <;> split <;> first | rfl | omega
    · split
      · next hca =>
        subst hca
        split
        · next hv =>
          simp only [Memory.readByte_cons]
          by_cases hb : b = c
          · subst hb
            rw [if_pos rfl, hv]
            exact Memory.readByte_of_lt m b hlt
          · rw [if_neg hb, if_neg (fun e => hb e.symm)]
        · simp only [Memory.readByte_cons]
          split <;> split <;> first | rfl | omega
      · have hac : a < c := by omega
        split
        · next hv =>
          by_cases hb : b = a
          · subst hb
            rw [if_pos rfl, hv]
            refine Memory.readByte_of_lt _ _ fun q hq => ?_
            rcases List.mem_cons.mp hq with rfl | hq
            · exact hac
            · exact lt_trans hac (hlt q hq)
          · rw [if_neg hb]
        · simp only [Memory.readByte_cons, eq_comm (a := b)]

/-! ## Words -/

/-- Writing a word keeps the canonical form. -/
theorem Memory.wf_writeWord (m : Memory) (i : Nat) (v : Word) (h : Memory.wf m) :
    Memory.wf (Memory.writeWord m i v) := by
  simp only [Memory.writeWord]
  exact Memory.wf_writeByte _ _ _ (Memory.wf_writeByte _ _ _ (Memory.wf_writeByte _ _ _ (Memory.wf_writeByte _ _ _ h)))

/-- Writing a word inside the bound keeps the bound. -/
theorem Memory.within_writeWord (n : Nat) (m : Memory) (i : Nat) (v : Word) (hi : i < n)
    (h : Memory.within n m) : Memory.within n (Memory.writeWord m i v) := by
  simp only [Memory.writeWord]
  exact Memory.within_writeByte _ _ _ _ (by omega) (Memory.within_writeByte _ _ _ _ (by omega)
    (Memory.within_writeByte _ _ _ _ (by omega) (Memory.within_writeByte _ _ _ _ (by omega) h)))

/-- A byte outside the written word reads as before. -/
theorem Memory.readByte_writeWord_of_ne (m : Memory) (i a : Nat) (v : Word) (h : Memory.wf m) (ha : a / 4 ≠ i) :
    Memory.readByte (Memory.writeWord m i v) a = Memory.readByte m a := by
  have h1 := Memory.wf_writeByte m (4 * i) (v.extractLsb' 0 8) h
  have h2 := Memory.wf_writeByte _ (4 * i + 1) (v.extractLsb' 8 8) h1
  have h3 := Memory.wf_writeByte _ (4 * i + 2) (v.extractLsb' 16 8) h2
  rw [Memory.writeWord, Memory.readByte_writeByte _ _ _ _ h3, if_neg (by omega), Memory.readByte_writeByte _ _ _ _ h2,
    if_neg (by omega), Memory.readByte_writeByte _ _ _ _ h1, if_neg (by omega), Memory.readByte_writeByte _ _ _ _ h,
    if_neg (by omega)]

/-- A word is its four bytes. -/
theorem word_eq_bytes (v : Word) :
    v.extractLsb' 24 8 ++ v.extractLsb' 16 8 ++ v.extractLsb' 8 8 ++ v.extractLsb' 0 8 = v := by
  apply BitVec.eq_of_getLsbD_eq
  intro k hk
  simp only [BitVec.getLsbD_append, BitVec.getLsbD_extractLsb']
  split
  · next h => simp [h]
  · split
    · next h1 h2 => simp only [h2, decide_true, Bool.true_and]; congr 1; omega
    · split
      · next h1 h2 h3 => simp only [h3, decide_true, Bool.true_and]; congr 1; omega
      · next h1 h2 h3 =>
        have : k - 8 - 8 - 8 < 8 := by omega
        simp only [this, decide_true, Bool.true_and]; congr 1; omega

/-- A written word reads back. -/
theorem Memory.readWord_writeWord_self (m : Memory) (i : Nat) (v : Word) (h : Memory.wf m) :
    Memory.readWord (Memory.writeWord m i v) i = v := by
  have h1 := Memory.wf_writeByte m (4 * i) (v.extractLsb' 0 8) h
  have h2 := Memory.wf_writeByte _ (4 * i + 1) (v.extractLsb' 8 8) h1
  have h3 := Memory.wf_writeByte _ (4 * i + 2) (v.extractLsb' 16 8) h2
  have e : ∀ b, Memory.readByte (Memory.writeWord m i v) b =
      if b = 4 * i + 3 then v.extractLsb' 24 8 else if b = 4 * i + 2 then v.extractLsb' 16 8
      else if b = 4 * i + 1 then v.extractLsb' 8 8 else if b = 4 * i then v.extractLsb' 0 8
      else Memory.readByte m b := fun b => by
    rw [Memory.writeWord, Memory.readByte_writeByte _ _ _ _ h3, Memory.readByte_writeByte _ _ _ _ h2,
      Memory.readByte_writeByte _ _ _ _ h1, Memory.readByte_writeByte _ _ _ _ h]
  rw [Memory.readWord, e, e, e, e]
  simpa using word_eq_bytes v

/-- Every other word reads as before. -/
theorem Memory.readWord_writeWord_of_ne (m : Memory) {i j : Nat} (v : Word) (h : Memory.wf m) (hj : j ≠ i) :
    Memory.readWord (Memory.writeWord m i v) j = Memory.readWord m j := by
  unfold Memory.readWord
  rw [Memory.readByte_writeWord_of_ne m i _ v h (by omega), Memory.readByte_writeWord_of_ne m i _ v h (by omega),
    Memory.readByte_writeWord_of_ne m i _ v h (by omega), Memory.readByte_writeWord_of_ne m i _ v h (by omega)]

/-! ## The memory interface -/

theorem memRead_eq_some {n : Nat} {m : Memory} {ea : Int} {v : Word} :
    memRead n m ea = some v ↔ inBounds n ea ∧ m.readWord ea.toNat = v := by
  unfold memRead
  split
  · next h => exact ⟨fun e => ⟨h, Option.some.inj e⟩, fun e => congrArg some e.2⟩
  · next h => exact ⟨nofun, fun e => absurd e.1 h⟩

theorem memRead_eq_none {n : Nat} {m : Memory} {ea : Int} : memRead n m ea = none ↔ ¬ inBounds n ea := by
  unfold memRead
  split <;> simp [*]

theorem memWrite_eq_some {n : Nat} {m m' : Memory} {ea : Int} {v : Word} :
    memWrite n m ea v = some m' ↔ inBounds n ea ∧ m.writeWord ea.toNat v = m' := by
  unfold memWrite
  split
  · next h => exact ⟨fun e => ⟨h, Option.some.inj e⟩, fun e => congrArg some e.2⟩
  · next h => exact ⟨nofun, fun e => absurd e.1 h⟩

theorem memWrite_eq_none {n : Nat} {m : Memory} {ea : Int} {v : Word} :
    memWrite n m ea v = none ↔ ¬ inBounds n ea := by
  unfold memWrite
  split <;> simp [*]

/-- An accepted write keeps the canonical form and the bound. -/
theorem memWrite_keeps {n : Nat} {m m' : Memory} {ea : Int} {v : Word} (h : memWrite n m ea v = some m')
    (hwf : m.wf) (hin : Memory.within n m) : m'.wf ∧ Memory.within n m' := by
  obtain ⟨⟨h0, h1⟩, rfl⟩ := memWrite_eq_some.mp h
  exact ⟨Memory.wf_writeWord _ _ _ hwf, Memory.within_writeWord _ _ _ _ (by omega) hin⟩

/-- Reset memory has the canonical form. -/
theorem reset_mem_wf : State.reset.mem.wf := Memory.wf_nil

end Sys2Proof.Machine
end

