-- ==== Sys2Proof/Laws/State.lean ====
section
/-! SUPPORT. What each named update does to each field of the state, and the reads of registers after each. -/

namespace Sys2Proof.Machine

@[simp] theorem writeReg_cfg (s : State) (r : Reg) (v : Word) : (writeReg s r v).cfg = s.cfg := rfl
@[simp] theorem writeReg_x (s : State) (r : Reg) (v : Word) : (writeReg s r v).x = s.x.set r v := rfl
@[simp] theorem writeReg_pc (s : State) (r : Reg) (v : Word) : (writeReg s r v).pc = s.pc := rfl
@[simp] theorem writeReg_mem (s : State) (r : Reg) (v : Word) : (writeReg s r v).mem = s.mem := rfl
@[simp] theorem writeReg_run (s : State) (r : Reg) (v : Word) : (writeReg s r v).run = s.run := rfl
@[simp] theorem writeReg_console (s : State) (r : Reg) (v : Word) : (writeReg s r v).console = s.console := rfl
@[simp] theorem writeReg_hostInput (s : State) (r : Reg) (v : Word) : (writeReg s r v).hostInput = s.hostInput := rfl

@[simp] theorem setPc_cfg (s : State) (t : Word) : (setPc s t).cfg = s.cfg := rfl
@[simp] theorem setPc_x (s : State) (t : Word) : (setPc s t).x = s.x := rfl
@[simp] theorem setPc_pc (s : State) (t : Word) : (setPc s t).pc = t := rfl
@[simp] theorem setPc_mem (s : State) (t : Word) : (setPc s t).mem = s.mem := rfl
@[simp] theorem setPc_run (s : State) (t : Word) : (setPc s t).run = s.run := rfl
@[simp] theorem setPc_console (s : State) (t : Word) : (setPc s t).console = s.console := rfl
@[simp] theorem setPc_hostInput (s : State) (t : Word) : (setPc s t).hostInput = s.hostInput := rfl

@[simp] theorem setMem_cfg (s : State) (m : Memory) : (setMem s m).cfg = s.cfg := rfl
@[simp] theorem setMem_x (s : State) (m : Memory) : (setMem s m).x = s.x := rfl
@[simp] theorem setMem_pc (s : State) (m : Memory) : (setMem s m).pc = s.pc := rfl
@[simp] theorem setMem_mem (s : State) (m : Memory) : (setMem s m).mem = m := rfl
@[simp] theorem setMem_run (s : State) (m : Memory) : (setMem s m).run = s.run := rfl
@[simp] theorem setMem_console (s : State) (m : Memory) : (setMem s m).console = s.console := rfl
@[simp] theorem setMem_hostInput (s : State) (m : Memory) : (setMem s m).hostInput = s.hostInput := rfl

@[simp] theorem emit_cfg (s : State) (e : ConsoleEvent) : (emit s e).cfg = s.cfg := rfl
@[simp] theorem emit_x (s : State) (e : ConsoleEvent) : (emit s e).x = s.x := rfl
@[simp] theorem emit_pc (s : State) (e : ConsoleEvent) : (emit s e).pc = s.pc := rfl
@[simp] theorem emit_mem (s : State) (e : ConsoleEvent) : (emit s e).mem = s.mem := rfl
@[simp] theorem emit_run (s : State) (e : ConsoleEvent) : (emit s e).run = s.run := rfl
@[simp] theorem emit_console (s : State) (e : ConsoleEvent) : (emit s e).console = s.console ++ [e] := rfl
@[simp] theorem emit_hostInput (s : State) (e : ConsoleEvent) : (emit s e).hostInput = s.hostInput := rfl

@[simp] theorem halt_cfg (s : State) : (halt s).cfg = s.cfg := rfl
@[simp] theorem halt_x (s : State) : (halt s).x = s.x := rfl
@[simp] theorem halt_pc (s : State) : (halt s).pc = s.pc := rfl
@[simp] theorem halt_mem (s : State) : (halt s).mem = s.mem := rfl
@[simp] theorem halt_run (s : State) : (halt s).run = .halted := rfl
@[simp] theorem halt_console (s : State) : (halt s).console = s.console := rfl
@[simp] theorem halt_hostInput (s : State) : (halt s).hostInput = s.hostInput := rfl

@[simp] theorem raiseFault_cfg (s : State) (r : FaultReason) : (raiseFault s r).cfg = s.cfg := rfl
@[simp] theorem raiseFault_x (s : State) (r : FaultReason) : (raiseFault s r).x = s.x := rfl
@[simp] theorem raiseFault_pc (s : State) (r : FaultReason) : (raiseFault s r).pc = s.pc := rfl
@[simp] theorem raiseFault_mem (s : State) (r : FaultReason) : (raiseFault s r).mem = s.mem := rfl
@[simp] theorem raiseFault_run (s : State) (r : FaultReason) : (raiseFault s r).run = .faulted r := rfl
@[simp] theorem raiseFault_console (s : State) (r : FaultReason) : (raiseFault s r).console = s.console := rfl
@[simp] theorem raiseFault_hostInput (s : State) (r : FaultReason) : (raiseFault s r).hostInput = s.hostInput := rfl

@[simp] theorem advancePc_cfg (s : State) : (advancePc s).cfg = s.cfg := rfl
@[simp] theorem advancePc_x (s : State) : (advancePc s).x = s.x := rfl
@[simp] theorem advancePc_pc (s : State) : (advancePc s).pc = wrap32 (sval s.pc + 1) := rfl
@[simp] theorem advancePc_mem (s : State) : (advancePc s).mem = s.mem := rfl
@[simp] theorem advancePc_run (s : State) : (advancePc s).run = s.run := rfl
@[simp] theorem advancePc_console (s : State) : (advancePc s).console = s.console := rfl
@[simp] theorem advancePc_hostInput (s : State) : (advancePc s).hostInput = s.hostInput := rfl

@[simp] theorem supplyInput_cfg (s : State) (v : Word) : (supplyInput s v).cfg = s.cfg := rfl
@[simp] theorem supplyInput_x (s : State) (v : Word) : (supplyInput s v).x = s.x := rfl
@[simp] theorem supplyInput_pc (s : State) (v : Word) : (supplyInput s v).pc = s.pc := rfl
@[simp] theorem supplyInput_mem (s : State) (v : Word) : (supplyInput s v).mem = s.mem := rfl
@[simp] theorem supplyInput_run (s : State) (v : Word) : (supplyInput s v).run = s.run := rfl
@[simp] theorem supplyInput_console (s : State) (v : Word) : (supplyInput s v).console = s.console := rfl
@[simp] theorem supplyInput_hostInput (s : State) (v : Word) : (supplyInput s v).hostInput = s.hostInput ++ [v] := rfl

@[simp] theorem readReg_writeReg_self (s : State) (r : Reg) (v : Word) : readReg (writeReg s r v) r = v := by
  simp [readReg]

theorem readReg_writeReg_of_ne (s : State) {r q : Reg} (v : Word) (h : q ≠ r) :
    readReg (writeReg s r v) q = readReg s q := by
  have : r.val ≠ q.val := fun e => h (Fin.ext e.symm)
  simp [readReg, Vector.getElem_set_ne, this]

/-- Everything a register write does to the register file. -/
theorem readReg_writeReg (s : State) (r q : Reg) (v : Word) :
    readReg (writeReg s r v) q = if q = r then v else readReg s q := by
  split
  next h => rw [h, readReg_writeReg_self]
  next h => exact readReg_writeReg_of_ne s v h

@[simp] theorem readReg_setPc (s : State) (t : Word) (q : Reg) : readReg (setPc s t) q = readReg s q := rfl
@[simp] theorem readReg_setMem (s : State) (m : Memory) (q : Reg) : readReg (setMem s m) q = readReg s q := rfl
@[simp] theorem readReg_emit (s : State) (e : ConsoleEvent) (q : Reg) : readReg (emit s e) q = readReg s q := rfl
@[simp] theorem readReg_halt (s : State) (q : Reg) : readReg (halt s) q = readReg s q := rfl
@[simp] theorem readReg_raiseFault (s : State) (r : FaultReason) (q : Reg) : readReg (raiseFault s r) q = readReg s q := rfl
@[simp] theorem readReg_advancePc (s : State) (q : Reg) : readReg (advancePc s) q = readReg s q := rfl
@[simp] theorem readReg_supplyInput (s : State) (v : Word) (q : Reg) : readReg (supplyInput s v) q = readReg s q := rfl

/-- The increment is the 32-bit successor (R32). -/
theorem advancePc_pc_eq (s : State) : (advancePc s).pc = s.pc + 1 := by
  apply BitVec.eq_of_toInt_eq
  simp [wrap32, sval, BitVec.toInt_add]

end Sys2Proof.Machine
end

