-- ==== Sys2Proof/Laws/Exec.lean ====
section
/-! SUPPORT. Once per shared operation: everything it can answer. Proofs cite these and unfold none of the operations. -/

namespace Sys2Proof.Machine

/-! ## Values -/

theorem sval_eq_zero_iff (v : Word) : sval v = 0 ↔ v = 0 := by
  constructor
  · intro h
    exact BitVec.eq_of_toInt_eq (by simpa [sval] using h)
  · rintro rfl
    rfl

@[simp] theorem isZero_iff (v : Word) : isZero v = true ↔ v = 0 := by simp [isZero]

theorem sval_wrap32 (v : Word) : wrap32 (sval v) = v := by simp [wrap32, sval]

/-- The ALU's only error is divideByZero, from a division by zero (R120). -/
theorem alu_cases (op : AluOp) (a b : Word) :
    (∃ v, alu op a b = .ok v ∧ (op = .div → b ≠ 0)) ∨ (op = .div ∧ b = 0 ∧ alu op a b = .error .divideByZero) := by
  cases op
  case div =>
    by_cases h : sval b = 0
    · exact .inr ⟨rfl, (sval_eq_zero_iff b).mp h, by simp [alu, divide, h]⟩
    · exact .inl ⟨_, by rw [alu, divide, if_neg h], fun _ e => h ((sval_eq_zero_iff b).mpr e)⟩
  all_goals exact .inl ⟨_, rfl, by simp⟩

/-! ## Meanings -/

/-- The end of a computing instruction: the register write, or the fault. -/
theorem writeBack_cases {rd : Reg} {v : Except FaultReason Word} {s t : State} (h : writeBack rd v s = .next t) :
    (∃ u, v = .ok u ∧ t = writeReg s rd u) ∨ (∃ r, v = .error r ∧ t = raiseFault s r) := by
  cases v with
  | ok u => exact .inl ⟨u, rfl, by simpa [writeBack] using h.symm⟩
  | error r => exact .inr ⟨r, rfl, by simpa [writeBack] using h.symm⟩

/-- An ALU instruction writes rd, or is a division by zero and raises that fault. -/
theorem execAlu_cases {op : AluOp} {rd ra : Reg} {b : Operand} {s t : State} (h : execAlu op rd ra b s = .next t) :
    (∃ u, alu op (readReg s ra) (operandValue s b) = .ok u ∧ t = writeReg s rd u) ∨
    (op = .div ∧ operandValue s b = 0 ∧ t = raiseFault s .divideByZero) := by
  rcases writeBack_cases h with ⟨u, hu, rfl⟩ | ⟨r, hr, rfl⟩
  · exact .inl ⟨u, hu, rfl⟩
  · rcases alu_cases op (readReg s ra) (operandValue s b) with ⟨v, hv, _⟩ | ⟨hop, hb, he⟩
    · rw [hv] at hr; cases hr
    · rw [he] at hr; cases hr; exact .inr ⟨hop, hb, rfl⟩

/-- An ALU instruction always has a next state. -/
theorem execAlu_next (op : AluOp) (rd ra : Reg) (b : Operand) (s : State) : ∃ t, execAlu op rd ra b s = .next t := by
  unfold execAlu writeBack
  split <;> exact ⟨_, rfl⟩

/-- LOAD writes rd with the word read, or raises its fault. -/
theorem execLoad_cases {rd rs : Reg} {imm : Word} {s t : State} (h : execLoad rd rs imm s = .next t) :
    (∃ v, memRead s.cfg.memWords s.mem (effectiveAddress s rs imm) = some v ∧ t = writeReg s rd v) ∨
    (¬ inBounds s.cfg.memWords (effectiveAddress s rs imm) ∧
      t = raiseFault s (.loadOutOfBounds (effectiveAddress s rs imm))) := by
  unfold execLoad loadValue at h
  split at h
  · next v hv => exact .inl ⟨v, hv, by simpa [writeBack] using h.symm⟩
  · next hv => exact .inr ⟨memRead_eq_none.mp hv, by simpa [writeBack] using h.symm⟩

/-- STORE writes the one word, or raises its fault. -/
theorem execStore_cases {rd rs : Reg} {imm : Word} {s t : State} (h : execStore rd rs imm s = .next t) :
    (∃ m, memWrite s.cfg.memWords s.mem (effectiveAddress s rs imm) (readReg s rd) = some m ∧ t = setMem s m) ∨
    (¬ inBounds s.cfg.memWords (effectiveAddress s rs imm) ∧
      t = raiseFault s (.storeOutOfBounds (effectiveAddress s rs imm))) := by
  unfold execStore at h
  split at h
  · next m hm => exact .inl ⟨m, hm, by simpa using h.symm⟩
  · next hm => exact .inr ⟨memWrite_eq_none.mp hm, by simpa using h.symm⟩

theorem branchIf_cases (taken : Bool) (addr : Word) (s : State) :
    (taken = true ∧ branchIf taken addr s = setPc s addr) ∨ (taken = false ∧ branchIf taken addr s = s) := by
  cases taken
  · exact .inr ⟨rfl, rfl⟩
  · exact .inl ⟨rfl, rfl⟩

/-- SCALL: it waits for the host's integer, reads it, emits one output event, or does nothing (R200). -/
theorem execScall_cases (sel : BitVec 26) (s : State) :
    (sel = 0 ∧ s.hostInput = [] ∧ execScall sel s = .fault .awaitingInput) ∨
    (∃ v rest, sel = 0 ∧ s.hostInput = v :: rest ∧
      execScall sel s =
        .next { writeReg (emit (emit s .prompt) (.input v)) s.cfg.ioReg v with hostInput := rest }) ∨
    (sel = 1 ∧ execScall sel s = .next (emit s (.labeled (readIo s)))) ∨
    (sel = 2 ∧ execScall sel s = .next (emit s (.decimal (readIo s)))) ∨
    (sel = 3 ∧ execScall sel s = .next (emit s (.char ((readIo s).extractLsb' 0 7)))) ∨
    (sel ≠ 0 ∧ sel ≠ 1 ∧ sel ≠ 2 ∧ sel ≠ 3 ∧ execScall sel s = .next s) := by
  by_cases h0 : sel = 0
  · subst h0
    cases hi : s.hostInput with
    | nil => exact .inl ⟨rfl, rfl, by simp [execScall, syscall, hi]⟩
    | cons v rest => exact .inr (.inl ⟨v, rest, rfl, rfl, by simp [execScall, syscall, dropInput, hi]⟩)
  · by_cases h1 : sel = 1
    · subst h1; exact .inr (.inr (.inl ⟨rfl, by simp [execScall, syscall, dropInput]⟩))
    · by_cases h2 : sel = 2
      · subst h2; exact .inr (.inr (.inr (.inl ⟨rfl, by simp [execScall, syscall, dropInput]⟩)))
      · by_cases h3 : sel = 3
        · subst h3; exact .inr (.inr (.inr (.inr (.inl ⟨rfl, by simp [execScall, syscall, dropInput]⟩))))
        · exact .inr (.inr (.inr (.inr (.inr ⟨h0, h1, h2, h3, by
            simp only [execScall, syscall, if_neg h0, if_neg h1, if_neg h2, if_neg h3, dropInput]⟩))))

/-! ## The arms of `exec` over their shared operations -/

theorem exec_add (rd rs1 rs2 : Reg) (s : State) :
    exec (.add rd rs1 rs2) s = execAlu .add rd rs1 (.reg rs2) s := rfl

theorem exec_addi (rd rs : Reg) (imm : Word) (s : State) :
    exec (.addi rd rs imm) s = execAlu .add rd rs (.imm imm) s := rfl

theorem exec_sub (rd rs1 rs2 : Reg) (s : State) :
    exec (.sub rd rs1 rs2) s = execAlu .sub rd rs1 (.reg rs2) s := rfl

theorem exec_subi (rd rs : Reg) (imm : Word) (s : State) :
    exec (.subi rd rs imm) s = execAlu .sub rd rs (.imm imm) s := rfl

theorem exec_mul (rd rs1 rs2 : Reg) (s : State) :
    exec (.mul rd rs1 rs2) s = execAlu .mul rd rs1 (.reg rs2) s := rfl

theorem exec_muli (rd rs : Reg) (imm : Word) (s : State) :
    exec (.muli rd rs imm) s = execAlu .mul rd rs (.imm imm) s := rfl

theorem exec_div (rd rs1 rs2 : Reg) (s : State) :
    exec (.div rd rs1 rs2) s = execAlu .div rd rs1 (.reg rs2) s := rfl

theorem exec_divi (rd rs : Reg) (imm : Word) (s : State) :
    exec (.divi rd rs imm) s = execAlu .div rd rs (.imm imm) s := rfl

theorem exec_and (rd rs1 rs2 : Reg) (s : State) :
    exec (.and rd rs1 rs2) s = execAlu .and rd rs1 (.reg rs2) s := rfl

theorem exec_andi (rd rs : Reg) (imm : Word) (s : State) :
    exec (.andi rd rs imm) s = execAlu .and rd rs (.imm imm) s := rfl

theorem exec_or (rd rs1 rs2 : Reg) (s : State) :
    exec (.or rd rs1 rs2) s = execAlu .or rd rs1 (.reg rs2) s := rfl

theorem exec_ori (rd rs : Reg) (imm : Word) (s : State) :
    exec (.ori rd rs imm) s = execAlu .or rd rs (.imm imm) s := rfl

theorem exec_xor (rd rs1 rs2 : Reg) (s : State) :
    exec (.xor rd rs1 rs2) s = execAlu .xor rd rs1 (.reg rs2) s := rfl

theorem exec_xori (rd rs : Reg) (imm : Word) (s : State) :
    exec (.xori rd rs imm) s = execAlu .xor rd rs (.imm imm) s := rfl

theorem exec_shl (rd rs1 rs2 : Reg) (s : State) :
    exec (.shl rd rs1 rs2) s = execAlu .shl rd rs1 (.reg rs2) s := rfl

theorem exec_shli (rd rs : Reg) (imm : Word) (s : State) :
    exec (.shli rd rs imm) s = execAlu .shl rd rs (.imm imm) s := rfl

theorem exec_shr (rd rs1 rs2 : Reg) (s : State) :
    exec (.shr rd rs1 rs2) s = execAlu .shr rd rs1 (.reg rs2) s := rfl

theorem exec_shri (rd rs : Reg) (imm : Word) (s : State) :
    exec (.shri rd rs imm) s = execAlu .shr rd rs (.imm imm) s := rfl

theorem exec_slt (rd rs1 rs2 : Reg) (s : State) :
    exec (.slt rd rs1 rs2) s = execAlu .slt rd rs1 (.reg rs2) s := rfl

theorem exec_slti (rd rs : Reg) (imm : Word) (s : State) :
    exec (.slti rd rs imm) s = execAlu .slt rd rs (.imm imm) s := rfl

theorem exec_sle (rd rs1 rs2 : Reg) (s : State) :
    exec (.sle rd rs1 rs2) s = execAlu .sle rd rs1 (.reg rs2) s := rfl

theorem exec_slei (rd rs : Reg) (imm : Word) (s : State) :
    exec (.slei rd rs imm) s = execAlu .sle rd rs (.imm imm) s := rfl

theorem exec_seq (rd rs1 rs2 : Reg) (s : State) :
    exec (.seq rd rs1 rs2) s = execAlu .seq rd rs1 (.reg rs2) s := rfl

theorem exec_seqi (rd rs : Reg) (imm : Word) (s : State) :
    exec (.seqi rd rs imm) s = execAlu .seq rd rs (.imm imm) s := rfl

/-! ## The step -/

theorem fetch_eq_some {s : State} {w : Word} :
    fetch s = some w ↔ inBounds s.cfg.memWords (sval s.pc) ∧ s.mem.readWord (sval s.pc).toNat = w :=
  memRead_eq_some

theorem fetch_eq_none {s : State} : fetch s = none ↔ ¬ inBounds s.cfg.memWords (sval s.pc) :=
  memRead_eq_none

/-- Everything a step with a next state can do: the state was Running, and it faulted at the fetch, at the opcode, or
executed the decoded instruction on the state past it. -/
theorem step_cases {s t : State} (h : step s = .next t) :
    s.run = .running ∧
    ((fetch s = none ∧ t = raiseFault s (.fetchOutOfBounds s.pc)) ∨
     (∃ w op, fetch s = some w ∧ decode s.cfg.opc w = .error (.invalidOpcode op) ∧
        t = raiseFault (advancePc s) (.invalidOpcode op)) ∨
     (∃ w i, fetch s = some w ∧ decode s.cfg.opc w = .ok i ∧ exec i (advancePc s) = .next t)) := by
  unfold step at h
  split at h
  · next hr =>
    refine ⟨hr, ?_⟩
    unfold stepRunning at h
    split at h
    · next hf => exact .inl ⟨hf, by simpa using h.symm⟩
    · next w hf =>
      split at h
      · next op hd => exact .inr (.inl ⟨w, op, hf, hd, by simpa using h.symm⟩)
      · next i hd => exact .inr (.inr ⟨w, i, hf, hd, h⟩)
  · cases h
  · cases h

end Sys2Proof.Machine
end

