-- ==== Sys2Proof/Laws/Effects.lean ====
section
/-! SUPPORT. Everything an instruction with a next state can have done, said once for all 32: proofs about every
instruction go by cases on `Effect`. -/

namespace Sys2Proof.Machine

/-- The destination of an instruction that computes a value for a register and leaves pc alone. -/
def computedReg : Instr → Option Reg
  | .add rd _ _ | .sub rd _ _ | .mul rd _ _ | .div rd _ _ | .and rd _ _ | .or rd _ _ | .xor rd _ _
  | .shl rd _ _ | .shr rd _ _ | .slt rd _ _ | .sle rd _ _ | .seq rd _ _
  | .addi rd _ _ | .subi rd _ _ | .muli rd _ _ | .divi rd _ _ | .andi rd _ _ | .ori rd _ _ | .xori rd _ _
  | .shli rd _ _ | .shri rd _ _ | .slti rd _ _ | .slei rd _ _ | .seqi rd _ _ | .load rd _ _ => some rd
  | .stop | .store _ _ _ | .jmpr _ _ | .jmpi _ _ | .braz _ _ | .branz _ _ | .scall _ => none

/-- The effects of the instructions on a state `s`. -/
inductive Effect (s : State) : Instr → State → Prop where
  | computed (i : Instr) (rd : Reg) (v : Word) (h : computedReg i = some rd) : Effect s i (writeReg s rd v)
  | divByZero (rd rs1 rs2 : Reg) (h : readReg s rs2 = 0) : Effect s (.div rd rs1 rs2) (raiseFault s .divideByZero)
  | diviByZero (rd rs : Reg) : Effect s (.divi rd rs 0) (raiseFault s .divideByZero)
  | loadFault (rd rs : Reg) (imm : Word) (h : ¬ inBounds s.cfg.memWords (effectiveAddress s rs imm)) :
      Effect s (.load rd rs imm) (raiseFault s (.loadOutOfBounds (effectiveAddress s rs imm)))
  | storeFault (rd rs : Reg) (imm : Word) (h : ¬ inBounds s.cfg.memWords (effectiveAddress s rs imm)) :
      Effect s (.store rd rs imm) (raiseFault s (.storeOutOfBounds (effectiveAddress s rs imm)))
  | stored (rd rs : Reg) (imm : Word) (m : Memory)
      (h : memWrite s.cfg.memWords s.mem (effectiveAddress s rs imm) (readReg s rd) = some m) :
      Effect s (.store rd rs imm) (setMem s m)
  | jumpedReg (rd ra : Reg) : Effect s (.jmpr rd ra) (setPc (writeReg s rd s.pc) (readReg (writeReg s rd s.pc) ra))
  | jumped (rd : Reg) (addr : Word) : Effect s (.jmpi rd addr) (setPc (writeReg s rd s.pc) addr)
  | brazTaken (rs : Reg) (addr : Word) (h : readReg s rs = 0) : Effect s (.braz rs addr) (setPc s addr)
  | brazNot (rs : Reg) (addr : Word) (h : readReg s rs ≠ 0) : Effect s (.braz rs addr) s
  | branzTaken (rs : Reg) (addr : Word) (h : readReg s rs ≠ 0) : Effect s (.branz rs addr) (setPc s addr)
  | branzNot (rs : Reg) (addr : Word) (h : readReg s rs = 0) : Effect s (.branz rs addr) s
  | halted : Effect s .stop (halt s)
  | inputRead (v : Word) (rest : List Word) (h : s.hostInput = v :: rest) :
      Effect s (.scall 0) { writeReg (emit (emit s .prompt) (.input v)) s.cfg.ioReg v with hostInput := rest }
  | labeled : Effect s (.scall 1) (emit s (.labeled (readIo s)))
  | decimal : Effect s (.scall 2) (emit s (.decimal (readIo s)))
  | char : Effect s (.scall 3) (emit s (.char ((readIo s).extractLsb' 0 7)))
  | unrecognized (sel : BitVec 26) (h : 4 ≤ sel.toNat) : Effect s (.scall sel) s

/-- Four selectors are recognized; every other one is at least 4. -/
theorem four_le_of_unrecognized {sel : BitVec 26} (h0 : sel ≠ 0) (h1 : sel ≠ 1) (h2 : sel ≠ 2) (h3 : sel ≠ 3) :
    4 ≤ sel.toNat := by
  have ne : ∀ n : Nat, sel ≠ BitVec.ofNat 26 n → n < 4 → sel.toNat ≠ n := fun n hn hl e =>
    hn (BitVec.eq_of_toNat_eq (by rw [e, BitVec.toNat_ofNat]; omega))
  have := ne 0 h0; have := ne 1 h1; have := ne 2 h2; have := ne 3 h3
  omega

theorem effect_of_execAlu {i : Instr} {op : AluOp} {rd ra : Reg} {b : Operand} {s t : State}
    (hi : computedReg i = some rd) (hop : op ≠ .div) (h : execAlu op rd ra b s = .next t) : Effect s i t := by
  rcases execAlu_cases h with ⟨u, _, rfl⟩ | ⟨hc, _, _⟩
  · exact .computed i rd u hi
  · exact absurd hc hop

/-- An instruction with a next state did one of these. -/
theorem effect_of_exec {i : Instr} {s t : State} (h : exec i s = .next t) : Effect s i t := by
  cases i
  case stop => cases h; exact .halted
  case div rd rs1 rs2 =>
    rcases execAlu_cases (op := .div) (b := .reg rs2) h with ⟨u, _, rfl⟩ | ⟨_, h0, rfl⟩
    · exact .computed _ rd u rfl
    · exact .divByZero rd rs1 rs2 h0
  case divi rd rs imm =>
    rcases execAlu_cases (op := .div) (b := .imm imm) h with ⟨u, _, rfl⟩ | ⟨_, h0, rfl⟩
    · exact .computed _ rd u rfl
    · have h0 : imm = 0 := h0
      subst h0
      exact .diviByZero rd rs
  case load rd rs imm =>
    rcases execLoad_cases h with ⟨v, _, rfl⟩ | ⟨hb, rfl⟩
    · exact .computed _ rd v rfl
    · exact .loadFault rd rs imm hb
  case store rd rs imm =>
    rcases execStore_cases h with ⟨m, hm, rfl⟩ | ⟨hb, rfl⟩
    · exact .stored rd rs imm m hm
    · exact .storeFault rd rs imm hb
  case jmpr rd ra => cases h; exact .jumpedReg rd ra
  case jmpi rd addr => cases h; exact .jumped rd addr
  case braz rs addr =>
    rcases branchIf_cases (isZero (readReg s rs)) addr s with ⟨hz, e⟩ | ⟨hz, e⟩
    · cases (congrArg Host.Outcome.next e).symm.trans h
      exact .brazTaken rs addr ((isZero_iff _).mp hz)
    · cases (congrArg Host.Outcome.next e).symm.trans h
      exact .brazNot rs addr (by simpa [isZero] using hz)
  case branz rs addr =>
    rcases branchIf_cases (!isZero (readReg s rs)) addr s with ⟨hz, e⟩ | ⟨hz, e⟩
    · cases (congrArg Host.Outcome.next e).symm.trans h
      exact .branzTaken rs addr (by simpa [isZero] using hz)
    · cases (congrArg Host.Outcome.next e).symm.trans h
      exact .branzNot rs addr (by simpa [isZero] using hz)
  case scall sel =>
    rcases execScall_cases sel s with ⟨_, _, e⟩ | ⟨v, rest, rfl, hi, e⟩ | ⟨rfl, e⟩ | ⟨rfl, e⟩ | ⟨rfl, e⟩ |
      ⟨h0, h1, h2, h3, e⟩
    · cases e.symm.trans h
    · cases e.symm.trans h; exact .inputRead v rest hi
    · cases e.symm.trans h; exact .labeled
    · cases e.symm.trans h; exact .decimal
    · cases e.symm.trans h; exact .char
    · cases e.symm.trans h; exact .unrecognized sel (four_le_of_unrecognized h0 h1 h2 h3)
  all_goals
    simp only [exec_add, exec_addi, exec_sub, exec_subi, exec_mul, exec_muli, exec_and, exec_andi, exec_or,
      exec_ori, exec_xor, exec_xori, exec_shl, exec_shli, exec_shr, exec_shri, exec_slt, exec_slti, exec_sle,
      exec_slei, exec_seq, exec_seqi] at h
    exact effect_of_execAlu rfl (by decide) h

end Sys2Proof.Machine
end

