-- ==== Sys2Proof/Laws/Loader.lean ====
section
/-! SUPPORT. What writing an image does to memory. -/

namespace Sys2Proof.Machine

/-- Writing an image keeps the canonical form, keeps the bound, and leaves each word its image word or what it was. -/
theorem writeImage_spec (img : List Word) (m : Memory) (i n : Nat) (hwf : m.wf) (hin : Memory.within n m)
    (hlen : i + img.length ≤ n) :
    (writeImage m i img).wf ∧ Memory.within n (writeImage m i img) ∧
      ∀ j, (writeImage m i img).readWord j =
        if i ≤ j ∧ j < i + img.length then img.getD (j - i) 0 else m.readWord j := by
  induction img generalizing m i with
  | nil => exact ⟨hwf, hin, fun j => by simp only [writeImage, List.length_nil]; rw [if_neg (by omega)]⟩
  | cons w ws ih =>
    simp only [List.length_cons] at hlen
    obtain ⟨h1, h2, h3⟩ := ih (m.writeWord i w) (i + 1) (Memory.wf_writeWord _ _ _ hwf)
      (Memory.within_writeWord _ _ _ _ (by omega) hin) (by omega)
    refine ⟨h1, h2, fun j => ?_⟩
    simp only [writeImage, h3 j, List.length_cons]
    by_cases hj : j = i
    · subst hj
      rw [if_neg (by omega), if_pos (by omega), Memory.readWord_writeWord_self _ _ _ hwf]
      simp
    · rw [Memory.readWord_writeWord_of_ne _ _ hwf hj]
      by_cases hc : i + 1 ≤ j ∧ j < i + 1 + ws.length
      · rw [if_pos hc, if_pos (by omega)]
        obtain ⟨k, hk⟩ : ∃ k, j - i = k + 1 := ⟨j - i - 1, by omega⟩
        have : j - (i + 1) = k := by omega
        simp [hk, this]
      · rw [if_neg hc, if_neg (by omega)]

end Sys2Proof.Machine
end

