-- ==== Sys2Proof/Laws/PerInstr.lean ====
section
/-! SUPPORT. Per instruction: the word that holds it under an opcode carries that opcode, and its fields read back as the
instruction's own. -/

namespace Sys2Proof.Laws.Fields

/-- The fields of `i` survive in its word, whatever opcode its mnemonic has. -/
def Statement (i : Instr) : Prop :=
  i.wellFormed = true → ∀ o : Opcode,
    opcodeField (encodeFields o i.fields) = o ∧ instrOf i.mnemonic (encodeFields o i.fields) = i

theorem stop : Statement .stop := by
  intro _ o
  exact ⟨opcodeField_encN o, rfl⟩

theorem add (rd rs1 rs2 : Reg) : Statement (.add rd rs1 rs2) := by
  intro _ o
  obtain ⟨h, h1, h2, h3⟩ := fields_encR o rd rs1 rs2
  simp [encodeFields, Instr.fields, Instr.mnemonic, instrOf, h, h1, h2, h3]

theorem addi (rd rs : Reg) (imm : Word) : Statement (.addi rd rs imm) := by
  intro w o
  obtain ⟨h, h1, h2, h3⟩ := fields_encI o rd rs imm (of_decide_eq_true w)
  simp [encodeFields, Instr.fields, Instr.mnemonic, instrOf, h, h1, h2, h3]

theorem sub (rd rs1 rs2 : Reg) : Statement (.sub rd rs1 rs2) := by
  intro _ o
  obtain ⟨h, h1, h2, h3⟩ := fields_encR o rd rs1 rs2
  simp [encodeFields, Instr.fields, Instr.mnemonic, instrOf, h, h1, h2, h3]

theorem subi (rd rs : Reg) (imm : Word) : Statement (.subi rd rs imm) := by
  intro w o
  obtain ⟨h, h1, h2, h3⟩ := fields_encI o rd rs imm (of_decide_eq_true w)
  simp [encodeFields, Instr.fields, Instr.mnemonic, instrOf, h, h1, h2, h3]

theorem mul (rd rs1 rs2 : Reg) : Statement (.mul rd rs1 rs2) := by
  intro _ o
  obtain ⟨h, h1, h2, h3⟩ := fields_encR o rd rs1 rs2
  simp [encodeFields, Instr.fields, Instr.mnemonic, instrOf, h, h1, h2, h3]

theorem muli (rd rs : Reg) (imm : Word) : Statement (.muli rd rs imm) := by
  intro w o
  obtain ⟨h, h1, h2, h3⟩ := fields_encI o rd rs imm (of_decide_eq_true w)
  simp [encodeFields, Instr.fields, Instr.mnemonic, instrOf, h, h1, h2, h3]

theorem div (rd rs1 rs2 : Reg) : Statement (.div rd rs1 rs2) := by
  intro _ o
  obtain ⟨h, h1, h2, h3⟩ := fields_encR o rd rs1 rs2
  simp [encodeFields, Instr.fields, Instr.mnemonic, instrOf, h, h1, h2, h3]

theorem divi (rd rs : Reg) (imm : Word) : Statement (.divi rd rs imm) := by
  intro w o
  obtain ⟨h, h1, h2, h3⟩ := fields_encI o rd rs imm (of_decide_eq_true w)
  simp [encodeFields, Instr.fields, Instr.mnemonic, instrOf, h, h1, h2, h3]

theorem and (rd rs1 rs2 : Reg) : Statement (.and rd rs1 rs2) := by
  intro _ o
  obtain ⟨h, h1, h2, h3⟩ := fields_encR o rd rs1 rs2
  simp [encodeFields, Instr.fields, Instr.mnemonic, instrOf, h, h1, h2, h3]

theorem andi (rd rs : Reg) (imm : Word) : Statement (.andi rd rs imm) := by
  intro w o
  obtain ⟨h, h1, h2, h3⟩ := fields_encI o rd rs imm (of_decide_eq_true w)
  simp [encodeFields, Instr.fields, Instr.mnemonic, instrOf, h, h1, h2, h3]

theorem or (rd rs1 rs2 : Reg) : Statement (.or rd rs1 rs2) := by
  intro _ o
  obtain ⟨h, h1, h2, h3⟩ := fields_encR o rd rs1 rs2
  simp [encodeFields, Instr.fields, Instr.mnemonic, instrOf, h, h1, h2, h3]

theorem ori (rd rs : Reg) (imm : Word) : Statement (.ori rd rs imm) := by
  intro w o
  obtain ⟨h, h1, h2, h3⟩ := fields_encI o rd rs imm (of_decide_eq_true w)
  simp [encodeFields, Instr.fields, Instr.mnemonic, instrOf, h, h1, h2, h3]

theorem xor (rd rs1 rs2 : Reg) : Statement (.xor rd rs1 rs2) := by
  intro _ o
  obtain ⟨h, h1, h2, h3⟩ := fields_encR o rd rs1 rs2
  simp [encodeFields, Instr.fields, Instr.mnemonic, instrOf, h, h1, h2, h3]

theorem xori (rd rs : Reg) (imm : Word) : Statement (.xori rd rs imm) := by
  intro w o
  obtain ⟨h, h1, h2, h3⟩ := fields_encI o rd rs imm (of_decide_eq_true w)
  simp [encodeFields, Instr.fields, Instr.mnemonic, instrOf, h, h1, h2, h3]

theorem shl (rd rs1 rs2 : Reg) : Statement (.shl rd rs1 rs2) := by
  intro _ o
  obtain ⟨h, h1, h2, h3⟩ := fields_encR o rd rs1 rs2
  simp [encodeFields, Instr.fields, Instr.mnemonic, instrOf, h, h1, h2, h3]

theorem shli (rd rs : Reg) (imm : Word) : Statement (.shli rd rs imm) := by
  intro w o
  obtain ⟨h, h1, h2, h3⟩ := fields_encI o rd rs imm (of_decide_eq_true w)
  simp [encodeFields, Instr.fields, Instr.mnemonic, instrOf, h, h1, h2, h3]

theorem shr (rd rs1 rs2 : Reg) : Statement (.shr rd rs1 rs2) := by
  intro _ o
  obtain ⟨h, h1, h2, h3⟩ := fields_encR o rd rs1 rs2
  simp [encodeFields, Instr.fields, Instr.mnemonic, instrOf, h, h1, h2, h3]

theorem shri (rd rs : Reg) (imm : Word) : Statement (.shri rd rs imm) := by
  intro w o
  obtain ⟨h, h1, h2, h3⟩ := fields_encI o rd rs imm (of_decide_eq_true w)
  simp [encodeFields, Instr.fields, Instr.mnemonic, instrOf, h, h1, h2, h3]

theorem slt (rd rs1 rs2 : Reg) : Statement (.slt rd rs1 rs2) := by
  intro _ o
  obtain ⟨h, h1, h2, h3⟩ := fields_encR o rd rs1 rs2
  simp [encodeFields, Instr.fields, Instr.mnemonic, instrOf, h, h1, h2, h3]

theorem slti (rd rs : Reg) (imm : Word) : Statement (.slti rd rs imm) := by
  intro w o
  obtain ⟨h, h1, h2, h3⟩ := fields_encI o rd rs imm (of_decide_eq_true w)
  simp [encodeFields, Instr.fields, Instr.mnemonic, instrOf, h, h1, h2, h3]

theorem sle (rd rs1 rs2 : Reg) : Statement (.sle rd rs1 rs2) := by
  intro _ o
  obtain ⟨h, h1, h2, h3⟩ := fields_encR o rd rs1 rs2
  simp [encodeFields, Instr.fields, Instr.mnemonic, instrOf, h, h1, h2, h3]

theorem slei (rd rs : Reg) (imm : Word) : Statement (.slei rd rs imm) := by
  intro w o
  obtain ⟨h, h1, h2, h3⟩ := fields_encI o rd rs imm (of_decide_eq_true w)
  simp [encodeFields, Instr.fields, Instr.mnemonic, instrOf, h, h1, h2, h3]

theorem seq (rd rs1 rs2 : Reg) : Statement (.seq rd rs1 rs2) := by
  intro _ o
  obtain ⟨h, h1, h2, h3⟩ := fields_encR o rd rs1 rs2
  simp [encodeFields, Instr.fields, Instr.mnemonic, instrOf, h, h1, h2, h3]

theorem seqi (rd rs : Reg) (imm : Word) : Statement (.seqi rd rs imm) := by
  intro w o
  obtain ⟨h, h1, h2, h3⟩ := fields_encI o rd rs imm (of_decide_eq_true w)
  simp [encodeFields, Instr.fields, Instr.mnemonic, instrOf, h, h1, h2, h3]

theorem load (rd rs : Reg) (imm : Word) : Statement (.load rd rs imm) := by
  intro w o
  obtain ⟨h, h1, h2, h3⟩ := fields_encI o rd rs imm (of_decide_eq_true w)
  simp [encodeFields, Instr.fields, Instr.mnemonic, instrOf, h, h1, h2, h3]

theorem store (rd rs : Reg) (imm : Word) : Statement (.store rd rs imm) := by
  intro w o
  obtain ⟨h, h1, h2, h3⟩ := fields_encI o rd rs imm (of_decide_eq_true w)
  simp [encodeFields, Instr.fields, Instr.mnemonic, instrOf, h, h1, h2, h3]

theorem jmpr (rd ra : Reg) : Statement (.jmpr rd ra) := by
  intro _ o
  obtain ⟨h, h1, h2⟩ := fields_encJR o rd ra
  simp [encodeFields, Instr.fields, Instr.mnemonic, instrOf, h, h1, h2]

theorem jmpi (rd : Reg) (addr : Word) : Statement (.jmpi rd addr) := by
  intro w o
  obtain ⟨h, h1, h2⟩ := fields_encJI o rd addr (of_decide_eq_true w)
  simp [encodeFields, Instr.fields, Instr.mnemonic, instrOf, h, h1, h2]

theorem braz (rs : Reg) (addr : Word) : Statement (.braz rs addr) := by
  intro w o
  obtain ⟨h, h1, h2⟩ := fields_encB o rs addr (of_decide_eq_true w)
  simp [encodeFields, Instr.fields, Instr.mnemonic, instrOf, h, h1, h2]

theorem branz (rs : Reg) (addr : Word) : Statement (.branz rs addr) := by
  intro w o
  obtain ⟨h, h1, h2⟩ := fields_encB o rs addr (of_decide_eq_true w)
  simp [encodeFields, Instr.fields, Instr.mnemonic, instrOf, h, h1, h2]

theorem scall (sel : BitVec 26) : Statement (.scall sel) := by
  intro _ o
  obtain ⟨h, h1⟩ := fields_encS o sel
  simp [encodeFields, Instr.fields, Instr.mnemonic, instrOf, h, h1]

end Sys2Proof.Laws.Fields
end

