-- ==== Sys2Proof/Machine/Listing.lean ====
section
/-! DEFINITION. The text of an instruction in a listing (R88). There is no pseudo-instruction (R89), and no rule of the
machine reads this text (D7). -/

namespace Sys2Proof.Machine

/-- `r0` to `r31` (R88). -/
def regText (r : Reg) : String := "r" ++ toString r.val

/-- `MNEM rd, rs1, rs2`. -/
def listR (m : String) (rd rs1 rs2 : Reg) : String :=
  m ++ " " ++ regText rd ++ ", " ++ regText rs1 ++ ", " ++ regText rs2

/-- `MNEM rd, rs, #imm`, the immediate in signed decimal. -/
def listI (m : String) (rd rs : Reg) (imm : Word) : String :=
  m ++ " " ++ regText rd ++ ", " ++ regText rs ++ ", #" ++ toString (sval imm)

/-- `MNEM r, #addr`, the form of JMPI and of the branches. -/
def listAddr (m : String) (r : Reg) (addr : Word) : String := m ++ " " ++ regText r ++ ", #" ++ toString (uval addr)

/-- The listing of an instruction (R88). -/
def listing : Instr → String
  | .stop => "STOP"
  | .add rd rs1 rs2 => listR "ADD" rd rs1 rs2
  | .addi rd rs imm => listI "ADDI" rd rs imm
  | .sub rd rs1 rs2 => listR "SUB" rd rs1 rs2
  | .subi rd rs imm => listI "SUBI" rd rs imm
  | .mul rd rs1 rs2 => listR "MUL" rd rs1 rs2
  | .muli rd rs imm => listI "MULI" rd rs imm
  | .div rd rs1 rs2 => listR "DIV" rd rs1 rs2
  | .divi rd rs imm => listI "DIVI" rd rs imm
  | .and rd rs1 rs2 => listR "AND" rd rs1 rs2
  | .andi rd rs imm => listI "ANDI" rd rs imm
  | .or rd rs1 rs2 => listR "OR" rd rs1 rs2
  | .ori rd rs imm => listI "ORI" rd rs imm
  | .xor rd rs1 rs2 => listR "XOR" rd rs1 rs2
  | .xori rd rs imm => listI "XORI" rd rs imm
  | .shl rd rs1 rs2 => listR "SHL" rd rs1 rs2
  | .shli rd rs imm => listI "SHLI" rd rs imm
  | .shr rd rs1 rs2 => listR "SHR" rd rs1 rs2
  | .shri rd rs imm => listI "SHRI" rd rs imm
  | .slt rd rs1 rs2 => listR "SLT" rd rs1 rs2
  | .slti rd rs imm => listI "SLTI" rd rs imm
  | .sle rd rs1 rs2 => listR "SLE" rd rs1 rs2
  | .slei rd rs imm => listI "SLEI" rd rs imm
  | .seq rd rs1 rs2 => listR "SEQ" rd rs1 rs2
  | .seqi rd rs imm => listI "SEQI" rd rs imm
  | .load rd rs imm => listI "LOAD" rd rs imm
  | .store rd rs imm => listI "STORE" rd rs imm
  | .jmpr rd ra => "JMPR " ++ regText rd ++ ", " ++ regText ra
  | .jmpi rd addr => listAddr "JMPI" rd addr
  | .braz rs addr => listAddr "BRAZ" rs addr
  | .branz rs addr => listAddr "BRANZ" rs addr
  | .scall sel => "SCALL #" ++ toString sel.toNat

end Sys2Proof.Machine
end

