-- ==== Sys2Proof/Tests/Slice0.lean ====
section
/-! SUPPORT. Small tests: words written out bit by bit from the layouts of R73 to R79, one step each from the vectors of
95_test_vectors.md, the refusals of WellFormed, and for every statement with hypotheses a state that meets them. -/

namespace Sys2Proof.Tests

open Sys2Proof.Machine

/-! ## Helpers -/

/-- The reset state with some registers set, and pc at `p`. -/
def regs (l : List (Reg × Word)) (p : Word := 0) : State :=
  { State.reset with pc := p, x := l.foldl (fun x r => x.set r.1 r.2) State.reset.x }

/-- `s` with the word `w` at its pc. -/
def withWord (w : Word) (s : State) : State := placeAtPc s w

/-- The state after one step on the word `w`, if there is one. -/
def after (w : Word) (s : State) : Option State :=
  match step (withWord w s) with
  | .next t => some t
  | _ => none

/-- Register `r` and the pc after one step on `w`. -/
def regPc (w : Word) (s : State) (r : Reg) : Option (Word × Word) := (after w s).map fun t => (readReg t r, t.pc)

/-- The run state and the pc after one step on `w`. -/
def runPc (w : Word) (s : State) : Option (RunState × Word) := (after w s).map fun t => (t.run, t.pc)

/-- The console and the register IO_REG after one step on `w`. -/
def consoleIo (w : Word) (s : State) : Option (List ConsoleEvent × Word) :=
  (after w s).map fun t => (t.console, readReg t 20)

/-- The stop a step on `w` answers, if it has no next state. -/
def stopOf (w : Word) (s : State) : Option Fault :=
  match step (withWord w s) with
  | .fault f => some f
  | _ => none

/-- Memory with 42 at word index 8. -/
def memory8 : Memory := Memory.writeWord [] 8 42

/-- A map whose STOP is 63 and which leaves 32 to 62 unassigned, so that 0 and 63 both halt. -/
def stop63 : OpcodeMap := { codes := OpcodeMap.reference.codes.set 0 63 }

/-- The reset state under the map `stop63` and a memory of one word. -/
def other : State := { State.reset with cfg := { Config.reference with opc := stop63, memWords := 1 } }

/-! ## WellFormed: one term per check, refused or accepted at its bounds (R74, R76, R77) -/

theorem test_wellFormed_imm :
    (Instr.addi 1 2 0x8000).wellFormed = false ∧ (Instr.load 1 2 0xFFFF7FFF).wellFormed = false ∧
    (Instr.store 1 2 0x7FFF).wellFormed = true ∧ (Instr.seqi 1 2 0xFFFF8000).wellFormed = true := by decide

theorem test_wellFormed_jumpAddr :
    (Instr.jmpi 1 0x200000).wellFormed = false ∧ (Instr.jmpi 1 0x1FFFFF).wellFormed = true := by decide

theorem test_wellFormed_branchAddr :
    (Instr.braz 1 0x20000).wellFormed = false ∧ (Instr.branz 1 0x20000).wellFormed = false ∧
    (Instr.braz 1 0x1FFFF).wellFormed = true := by decide

/-! ## Decoding: one word per instruction, opcode and fields bit by bit (R73 to R79, opcodes of R84) -/

theorem test_decode_arithmetic :
    decode OpcodeMap.reference 0b000001_00101_10010_01001_00000000000 = .ok (.add 5 18 9) ∧
    decode OpcodeMap.reference 0b000010_00101_10010_1111111111111110 = .ok (.addi 5 18 0xFFFFFFFE) ∧
    decode OpcodeMap.reference 0b000011_00101_10010_01001_00000000000 = .ok (.sub 5 18 9) ∧
    decode OpcodeMap.reference 0b000100_00101_10010_1111111111111110 = .ok (.subi 5 18 0xFFFFFFFE) ∧
    decode OpcodeMap.reference 0b000101_00101_10010_01001_00000000000 = .ok (.mul 5 18 9) ∧
    decode OpcodeMap.reference 0b000110_00101_10010_1111111111111110 = .ok (.muli 5 18 0xFFFFFFFE) ∧
    decode OpcodeMap.reference 0b000111_00101_10010_01001_00000000000 = .ok (.div 5 18 9) ∧
    decode OpcodeMap.reference 0b001000_00101_10010_1111111111111110 = .ok (.divi 5 18 0xFFFFFFFE) := by decide

theorem test_encode_arithmetic :
    encode OpcodeMap.reference (.add 5 18 9) = 0b000001_00101_10010_01001_00000000000 ∧
    encode OpcodeMap.reference (.addi 5 18 0xFFFFFFFE) = 0b000010_00101_10010_1111111111111110 ∧
    encode OpcodeMap.reference (.sub 5 18 9) = 0b000011_00101_10010_01001_00000000000 ∧
    encode OpcodeMap.reference (.subi 5 18 0xFFFFFFFE) = 0b000100_00101_10010_1111111111111110 ∧
    encode OpcodeMap.reference (.mul 5 18 9) = 0b000101_00101_10010_01001_00000000000 ∧
    encode OpcodeMap.reference (.muli 5 18 0xFFFFFFFE) = 0b000110_00101_10010_1111111111111110 ∧
    encode OpcodeMap.reference (.div 5 18 9) = 0b000111_00101_10010_01001_00000000000 ∧
    encode OpcodeMap.reference (.divi 5 18 0xFFFFFFFE) = 0b001000_00101_10010_1111111111111110 := by decide

theorem test_decode_logic :
    decode OpcodeMap.reference 0b001001_00101_10010_01001_00000000000 = .ok (.and 5 18 9) ∧
    decode OpcodeMap.reference 0b001010_00101_10010_1111111111111110 = .ok (.andi 5 18 0xFFFFFFFE) ∧
    decode OpcodeMap.reference 0b001011_00101_10010_01001_00000000000 = .ok (.or 5 18 9) ∧
    decode OpcodeMap.reference 0b001100_00101_10010_1111111111111110 = .ok (.ori 5 18 0xFFFFFFFE) ∧
    decode OpcodeMap.reference 0b001101_00101_10010_01001_00000000000 = .ok (.xor 5 18 9) ∧
    decode OpcodeMap.reference 0b001110_00101_10010_1111111111111110 = .ok (.xori 5 18 0xFFFFFFFE) := by decide

theorem test_encode_logic :
    encode OpcodeMap.reference (.and 5 18 9) = 0b001001_00101_10010_01001_00000000000 ∧
    encode OpcodeMap.reference (.andi 5 18 0xFFFFFFFE) = 0b001010_00101_10010_1111111111111110 ∧
    encode OpcodeMap.reference (.or 5 18 9) = 0b001011_00101_10010_01001_00000000000 ∧
    encode OpcodeMap.reference (.ori 5 18 0xFFFFFFFE) = 0b001100_00101_10010_1111111111111110 ∧
    encode OpcodeMap.reference (.xor 5 18 9) = 0b001101_00101_10010_01001_00000000000 ∧
    encode OpcodeMap.reference (.xori 5 18 0xFFFFFFFE) = 0b001110_00101_10010_1111111111111110 := by decide

theorem test_decode_shift :
    decode OpcodeMap.reference 0b001111_00101_10010_01001_00000000000 = .ok (.shl 5 18 9) ∧
    decode OpcodeMap.reference 0b010000_00101_10010_1111111111111110 = .ok (.shli 5 18 0xFFFFFFFE) ∧
    decode OpcodeMap.reference 0b010001_00101_10010_01001_00000000000 = .ok (.shr 5 18 9) ∧
    decode OpcodeMap.reference 0b010010_00101_10010_1111111111111110 = .ok (.shri 5 18 0xFFFFFFFE) := by decide

theorem test_encode_shift :
    encode OpcodeMap.reference (.shl 5 18 9) = 0b001111_00101_10010_01001_00000000000 ∧
    encode OpcodeMap.reference (.shli 5 18 0xFFFFFFFE) = 0b010000_00101_10010_1111111111111110 ∧
    encode OpcodeMap.reference (.shr 5 18 9) = 0b010001_00101_10010_01001_00000000000 ∧
    encode OpcodeMap.reference (.shri 5 18 0xFFFFFFFE) = 0b010010_00101_10010_1111111111111110 := by decide

theorem test_decode_compare :
    decode OpcodeMap.reference 0b010011_00101_10010_01001_00000000000 = .ok (.slt 5 18 9) ∧
    decode OpcodeMap.reference 0b010100_00101_10010_1111111111111110 = .ok (.slti 5 18 0xFFFFFFFE) ∧
    decode OpcodeMap.reference 0b010101_00101_10010_01001_00000000000 = .ok (.sle 5 18 9) ∧
    decode OpcodeMap.reference 0b010110_00101_10010_1111111111111110 = .ok (.slei 5 18 0xFFFFFFFE) ∧
    decode OpcodeMap.reference 0b010111_00101_10010_01001_00000000000 = .ok (.seq 5 18 9) ∧
    decode OpcodeMap.reference 0b011000_00101_10010_1111111111111110 = .ok (.seqi 5 18 0xFFFFFFFE) := by decide

theorem test_encode_compare :
    encode OpcodeMap.reference (.slt 5 18 9) = 0b010011_00101_10010_01001_00000000000 ∧
    encode OpcodeMap.reference (.slti 5 18 0xFFFFFFFE) = 0b010100_00101_10010_1111111111111110 ∧
    encode OpcodeMap.reference (.sle 5 18 9) = 0b010101_00101_10010_01001_00000000000 ∧
    encode OpcodeMap.reference (.slei 5 18 0xFFFFFFFE) = 0b010110_00101_10010_1111111111111110 ∧
    encode OpcodeMap.reference (.seq 5 18 9) = 0b010111_00101_10010_01001_00000000000 ∧
    encode OpcodeMap.reference (.seqi 5 18 0xFFFFFFFE) = 0b011000_00101_10010_1111111111111110 := by decide

theorem test_decode_loadStore :
    decode OpcodeMap.reference 0b011001_00101_10010_1111111111111110 = .ok (.load 5 18 0xFFFFFFFE) ∧
    decode OpcodeMap.reference 0b011010_00101_10010_1111111111111110 = .ok (.store 5 18 0xFFFFFFFE) := by decide

theorem test_encode_loadStore :
    encode OpcodeMap.reference (.load 5 18 0xFFFFFFFE) = 0b011001_00101_10010_1111111111111110 ∧
    encode OpcodeMap.reference (.store 5 18 0xFFFFFFFE) = 0b011010_00101_10010_1111111111111110 := by decide

theorem test_decode_control :
    decode OpcodeMap.reference 0b011011_00101_10010_0000000000000000 = .ok (.jmpr 5 18) ∧
    decode OpcodeMap.reference 0b011100_00101_100000000000000000011 = .ok (.jmpi 5 0x100003) ∧
    decode OpcodeMap.reference 0b011101_00101_0000_10000000000000011 = .ok (.braz 5 0x10003) ∧
    decode OpcodeMap.reference 0b011110_00101_0000_10000000000000011 = .ok (.branz 5 0x10003) ∧
    decode OpcodeMap.reference 0b000000_11111111111111111111111111 = .ok (.stop) := by decide

theorem test_encode_control :
    encode OpcodeMap.reference (.jmpr 5 18) = 0b011011_00101_10010_0000000000000000 ∧
    encode OpcodeMap.reference (.jmpi 5 0x100003) = 0b011100_00101_100000000000000000011 ∧
    encode OpcodeMap.reference (.braz 5 0x10003) = 0b011101_00101_0000_10000000000000011 ∧
    encode OpcodeMap.reference (.branz 5 0x10003) = 0b011110_00101_0000_10000000000000011 ∧
    encode OpcodeMap.reference (.stop) = 0b000000_00000000000000000000000000 := by decide

theorem test_decode_scall :
    decode OpcodeMap.reference 0b011111_10000000000000000000000011 = .ok (.scall 0x2000003) := by decide

theorem test_encode_scall :
    encode OpcodeMap.reference (.scall 0x2000003) = 0b011111_10000000000000000000000011 := by decide

/-- Opcodes 32 and 63 have no row (R86); under `stop63` opcode 63 is STOP and opcode 0 still halts (R85, D3). -/
theorem test_decode_classes :
    decode OpcodeMap.reference 0x80000000 = .error (.invalidOpcode 32) ∧
    decode OpcodeMap.reference 0xFC000000 = .error (.invalidOpcode 63) ∧
    decode stop63 0xFC000001 = .ok .stop ∧ decode stop63 0x00000001 = .ok .stop ∧
    decode stop63 0xF8000000 = .error (.invalidOpcode 62) := by decide

/-- The host's numbering: one word, its bits as they stand. -/
theorem test_decodeTableWord :
    decodeTableWord 32 0x04611000 = some (.add 3 1 2) ∧ decodeTableWord 32 0xFC000000 = none := by decide

/-! ## One step per row of 95_test_vectors.md (the section stands before each test) -/

/-- 95_test_vectors.md W1 and section 2.2, rows 1 to 3. -/
theorem test_add :
    regPc 0x04611000 (regs [(1, 0x7FFFFFFF), (2, 1)]) 3 = some (0x80000000, 1) ∧
    regPc 0x04611000 (regs [(1, 0xFFFFFFFB), (2, 3)]) 3 = some (0xFFFFFFFE, 1) ∧
    regPc 0x04210800 (regs [(1, 0x40000000)]) 1 = some (0x80000000, 1) := by decide

/-- 95_test_vectors.md W2, W3 and section 2.2, row 5. -/
theorem test_addi :
    regPc 0x08418000 (regs [(1, 0)]) 2 = some (0xFFFF8000, 1) ∧
    regPc 0x08417FFF (regs [(1, 0)]) 2 = some (0x00007FFF, 1) ∧
    regPc 0x08410001 (regs [(1, 0x7FFFFFFF)]) 2 = some (0x80000000, 1) := by decide

/-- 95_test_vectors.md section 2.2. -/
theorem test_sub :
    regPc 0x0C611000 (regs [(1, 5), (2, 7)]) 3 = some (0xFFFFFFFE, 1) ∧
    regPc 0x0C611000 (regs [(1, 0x80000000), (2, 1)]) 3 = some (0x7FFFFFFF, 1) := by decide

/-- 95_test_vectors.md section 2.2. -/
theorem test_subi :
    regPc 0x10218000 (regs [(1, 0)]) 1 = some (0x00008000, 1) ∧
    regPc 0x10410001 (regs [(1, 0x80000000)]) 2 = some (0x7FFFFFFF, 1) := by decide

/-- 95_test_vectors.md section 2.2. -/
theorem test_mul :
    regPc 0x14611000 (regs [(1, 0xFFFFFFFD), (2, 7)]) 3 = some (0xFFFFFFEB, 1) ∧
    regPc 0x14611000 (regs [(1, 65536), (2, 65536)]) 3 = some (0, 1) := by decide

/-- 95_test_vectors.md section 2.2. -/
theorem test_muli :
    regPc 0x18417530 (regs [(1, 100000)]) 2 = some (0xB2D05E00, 1) ∧
    regPc 0x1841FFFF (regs [(1, 0x80000000)]) 2 = some (0x80000000, 1) := by decide

/-- 95_test_vectors.md section 2.2. -/
theorem test_div :
    regPc 0x1C611000 (regs [(1, 0xFFFFFFF9), (2, 2)]) 3 = some (0xFFFFFFFD, 1) ∧
    regPc 0x1C611000 (regs [(1, 7), (2, 0xFFFFFFFE)]) 3 = some (0xFFFFFFFD, 1) ∧
    regPc 0x1C611000 (regs [(1, 0x80000000), (2, 0xFFFFFFFF)]) 3 = some (0x80000000, 1) := by decide

/-- 95_test_vectors.md section 2.2. -/
theorem test_div_byZero :
    runPc 0x1C611000 (regs [(1, 5)]) = some (.faulted .divideByZero, 1) := by decide

/-- 95_test_vectors.md section 2.2. -/
theorem test_divi :
    regPc 0x2041FFF9 (regs [(1, 100)]) 2 = some (0xFFFFFFF2, 1) ∧
    regPc 0x2041FFFF (regs [(1, 0x80000000)]) 2 = some (0x80000000, 1) := by decide

/-- 95_test_vectors.md section 2.2. -/
theorem test_divi_byZero :
    runPc 0x20410000 (regs [(1, 100)]) = some (.faulted .divideByZero, 1) := by decide

/-- 95_test_vectors.md section 2.3. -/
theorem test_and :
    regPc 0x24611000 (regs [(1, 0x0000FF0F), (2, 0x000F0FF0)]) 3 = some (0x00000F00, 1) := by decide

/-- 95_test_vectors.md section 2.3. -/
theorem test_andi :
    regPc 0x2841FFFF (regs [(1, 0x12345678)]) 2 = some (0x12345678, 1) ∧
    regPc 0x284100FF (regs [(1, 0x12345678)]) 2 = some (0x00000078, 1) := by decide

/-- 95_test_vectors.md section 2.3. -/
theorem test_or :
    regPc 0x2C611000 (regs [(1, 0xF000), (2, 0xF)]) 3 = some (0x0000F00F, 1) := by decide

/-- 95_test_vectors.md section 2.3. -/
theorem test_ori :
    regPc 0x30418000 (regs [(1, 0)]) 2 = some (0xFFFF8000, 1) := by decide

/-- 95_test_vectors.md section 2.3. -/
theorem test_xor :
    regPc 0x34610800 (regs [(1, 0xDEADBEEF)]) 3 = some (0, 1) := by decide

/-- 95_test_vectors.md section 2.3. -/
theorem test_xori :
    regPc 0x3841FFFF (regs [(1, 5)]) 2 = some (0xFFFFFFFA, 1) := by decide

/-- 95_test_vectors.md section 2.3. -/
theorem test_shl :
    regPc 0x3C611000 (regs [(1, 1), (2, 31)]) 3 = some (0x80000000, 1) ∧
    regPc 0x3C611000 (regs [(1, 1), (2, 32)]) 3 = some (0, 1) ∧
    regPc 0x3C611000 (regs [(1, 1), (2, 0xFFFFFFFF)]) 3 = some (0, 1) := by decide

/-- 95_test_vectors.md section 2.3. -/
theorem test_shli :
    regPc 0x40410004 (regs [(1, 3)]) 2 = some (48, 1) ∧
    regPc 0x4041FFFF (regs [(1, 3)]) 2 = some (0, 1) := by decide

/-- 95_test_vectors.md section 2.3. -/
theorem test_shr :
    regPc 0x44611000 (regs [(1, 0xFFFFFFF8), (2, 1)]) 3 = some (0x7FFFFFFC, 1) ∧
    regPc 0x44611000 (regs [(1, 0xFFFFFFFF), (2, 31)]) 3 = some (1, 1) ∧
    regPc 0x44611000 (regs [(1, 0xFFFFFFFF), (2, 33)]) 3 = some (0, 1) := by decide

/-- 95_test_vectors.md section 2.3. -/
theorem test_shri :
    regPc 0x4841001F (regs [(1, 0x80000000)]) 2 = some (1, 1) ∧
    regPc 0x48410020 (regs [(1, 0x80000000)]) 2 = some (0, 1) := by decide

/-- 95_test_vectors.md section 2.4. -/
theorem test_slt :
    regPc 0x4C611000 (regs [(1, 0xFFFFFFFF), (2, 1)]) 3 = some (1, 1) ∧
    regPc 0x4C611000 (regs [(1, 1), (2, 0xFFFFFFFF)]) 3 = some (0, 1) := by decide

/-- 95_test_vectors.md section 2.4. -/
theorem test_slti :
    regPc 0x5041FFFF (regs [(1, 0xFFFFFFFE)]) 2 = some (1, 1) ∧
    regPc 0x50418000 (regs [(1, 0xFFFF8000)]) 2 = some (0, 1) := by decide

/-- 95_test_vectors.md section 2.4. -/
theorem test_sle :
    regPc 0x54611000 (regs [(1, 7), (2, 7)]) 3 = some (1, 1) ∧
    regPc 0x54611000 (regs [(1, 0x7FFFFFFF), (2, 0x80000000)]) 3 = some (0, 1) := by decide

/-- 95_test_vectors.md section 2.4. -/
theorem test_slei :
    regPc 0x58417FFF (regs [(1, 32768)]) 2 = some (0, 1) ∧
    regPc 0x58417FFF (regs [(1, 32767)]) 2 = some (1, 1) := by decide

/-- 95_test_vectors.md section 2.4. -/
theorem test_seq :
    regPc 0x5C611000 (regs [(1, 0x80000000), (2, 0x80000000)]) 3 = some (1, 1) ∧
    regPc 0x5C211000 (regs [(1, 4), (2, 5)]) 1 = some (0, 1) := by decide

/-- 95_test_vectors.md section 2.4. -/
theorem test_seqi :
    regPc 0x6041FFFF (regs [(1, 0xFFFFFFFF)]) 2 = some (1, 1) ∧
    regPc 0x6041FFFF (regs [(1, 0x0000FFFF)]) 2 = some (0, 1) := by decide

/-- 95_test_vectors.md section 2.5. -/
theorem test_load :
    regPc 0x64810003 { regs [(1, 5)] with mem := memory8 } 4 = some (42, 1) ∧
    regPc 0x64210000 { regs [(1, 2047)] with mem := Memory.writeWord [] 2047 0x80000001 } 1 = some (0x80000001, 1) := by decide

/-- 95_test_vectors.md W5 and section 2.5. -/
theorem test_load_outOfBounds :
    runPc 0x6481FFFF (regs []) = some (.faulted (.loadOutOfBounds (-1)), 1) ∧
    runPc 0x64810000 (regs [(1, 2048)]) = some (.faulted (.loadOutOfBounds 2048), 1) ∧
    runPc 0x64810001 (regs [(1, 0x7FFFFFFF)]) = some (.faulted (.loadOutOfBounds 2147483648), 1) ∧
    runPc 0x6481FFFF (regs [(1, 0x80000000)]) = some (.faulted (.loadOutOfBounds (-2147483649)), 1) := by decide

/-- 95_test_vectors.md W4 and section 2.5. -/
theorem test_store :
    (after 0x68410003 (regs [(1, 5), (2, 0xFFFFFFF7)])).map (fun t => (t.mem.readWord 8, t.pc)) = some (0xFFFFFFF7, 1) ∧
    (after 0x68210000 (regs [(1, 7)])).map (fun t => t.mem.readWord 7) = some 7 := by decide

/-- 95_test_vectors.md W5 and section 2.5. -/
theorem test_store_outOfBounds :
    runPc 0x68410000 (regs [(1, 2048), (2, 1)]) = some (.faulted (.storeOutOfBounds 2048), 1) ∧
    runPc 0x68418000 (regs [(1, 32767), (2, 1)]) = some (.faulted (.storeOutOfBounds (-1)), 1) := by decide

/-- 95_test_vectors.md section 2.6. -/
theorem test_jmpr :
    regPc 0x6C220000 (regs [(2, 7)] 3) 1 = some (4, 7) ∧
    regPc 0x6C220000 (regs [(2, 0xFFFFFFFF)] 3) 1 = some (4, 0xFFFFFFFF) := by decide

/-- 95_test_vectors.md section 2.6 (D20). -/
theorem test_jmpr_sameRegister :
    regPc 0x6C420000 (regs [(2, 7)] 3) 2 = some (4, 4) := by decide

/-- 95_test_vectors.md section 2.6. -/
theorem test_jmpi :
    regPc 0x7000000A (regs []) 0 = some (1, 10) ∧
    regPc 0x73E0000A (regs [] 4) 31 = some (5, 10) ∧
    regPc 0x70BFFFFF (regs []) 5 = some (1, 2097151) := by decide

/-- 95_test_vectors.md section 2.6. -/
theorem test_braz :
    runPc 0x74200014 (regs [] 3) = some (.running, 20) ∧
    runPc 0x74200014 (regs [(1, 5)] 3) = some (.running, 4) ∧
    runPc 0x7421FFFF (regs []) = some (.running, 131071) := by decide

/-- 95_test_vectors.md section 2.6. -/
theorem test_branz :
    runPc 0x78200014 (regs [] 3) = some (.running, 4) ∧
    runPc 0x78200014 (regs [(1, 0xFFFFFFFF)] 3) = some (.running, 20) := by decide

/-- 95_test_vectors.md W9 and section 2.1. -/
theorem test_stop :
    runPc 0x00000000 (regs []) = some (.halted, 1) ∧
    runPc 0x03FFFFFF (regs []) = some (.halted, 1) := by decide

/-- 95_test_vectors.md W10 and section 2.1. -/
theorem test_invalidOpcode :
    runPc 0xFC000000 (regs []) = some (.faulted (.invalidOpcode 63), 1) ∧
    runPc 0x80000000 (regs []) = some (.faulted (.invalidOpcode 32), 1) := by decide

/-- 95_test_vectors.md section 2.6 and P6. -/
theorem test_fetchOutOfBounds :
    runPc 0 (regs [] 0xFFFFFFFF) = some (.faulted (.fetchOutOfBounds 0xFFFFFFFF), 0xFFFFFFFF) ∧
    runPc 0 (regs [] 3000) = some (.faulted (.fetchOutOfBounds 3000), 3000) := by decide

/-- 95_test_vectors.md section 2.7, rows 1 and 2. -/
theorem test_scall_input :
    consoleIo 0x7C000000 { regs [(20, 99)] with hostInput := [0xFFFFFFD6] } =
      some ([.prompt, .input 0xFFFFFFD6], 0xFFFFFFD6) ∧
    stopOf 0x7C000000 (regs [(20, 99)]) = some .awaitingInput := by decide

/-- 95_test_vectors.md section 2.7, rows 3 to 7. -/
theorem test_scall_output :
    consoleIo 0x7C000001 (regs [(20, 0xFFFFFFF9)]) = some ([.labeled 0xFFFFFFF9], 0xFFFFFFF9) ∧
    consoleIo 0x7C000002 (regs [(20, 0xFFFFFFF9)]) = some ([.decimal 0xFFFFFFF9], 0xFFFFFFF9) ∧
    consoleIo 0x7C000003 (regs [(20, 0xC1)]) = some ([.char 65], 0xC1) ∧
    consoleIo 0x7C000004 (regs [(20, 5)]) = some ([], 5) ∧
    consoleIo 0x7FFFFFFF (regs [(20, 5)]) = some ([], 5) := by decide

/-- 95_test_vectors.md section 2.8. -/
theorem test_image :
    imageOfBytes .little [5, 0, 0x20, 8, 7, 0, 0x40, 8, 0xAB] = [0x08200005, 0x08400007] ∧
    imageOfBytes .big [5, 0, 0x20, 8] = [0x05002008] := by decide

/-- The examples of R88. -/
theorem test_listing :
    listing (.add 3 1 2) = "ADD r3, r1, r2" ∧ listing (.addi 1 0 5) = "ADDI r1, r0, #5" ∧
    listing (.store 2 1 3) = "STORE r2, r1, #3" ∧ listing (.jmpr 31 5) = "JMPR r31, r5" ∧
    listing (.branz 1 20) = "BRANZ r1, #20" ∧ listing (.scall 2) = "SCALL #2" := by decide

/-- The parameters without a default reach what they name (R192, R219), and the digits of W11 of 95_test_vectors.md. -/
theorem test_parameters :
    renderEvent (Parameters.reference "? " "= " "," 7) (.labeled 12) = "= 12," ∧
    renderEvent (Parameters.reference "? " "= " "," 7) .prompt = "? " ∧
    exitStatus (Parameters.reference "? " "= " "," 7) (.faulted .divideByZero) = some 7 := by decide

/-! ## Witnesses: for every statement with hypotheses, a state and operands that meet them together, and each clause of
a statement at a boundary of its range. The states are not the reset state's own invariant, which is an obligation. -/

/-- Statements over every opcode map or every legal configuration: the reference map, and one with STOP at 63. -/
theorem test_witness_maps : OpcodeMap.reference.Valid ∧ stop63.Valid ∧ other.cfg.Valid := by decide

/-- DispatchTableClassifiesEveryOpcode: opcode 62 of `stop63` meets the last clause's hypotheses. -/
theorem test_witness_dispatch :
    stop63.Valid ∧ (62 : Opcode) ≠ 0 ∧ 62 ≠ stop63.code .stop ∧ stop63.code .scall = 31 ∧
    classOf stop63 62 = .invalid ∧ classOf stop63 63 = .halt := by decide

/-- DecodeOfEncodeIsTheInstruction, at the bounds of the immediate. -/
theorem test_witness_decodeOfEncode :
    stop63.Valid ∧ (Instr.store 31 0 0xFFFF8000).wellFormed = true ∧ (Instr.load 0 31 0x7FFF).wellFormed = true := by
  decide

/-- DecodedInstructionsAreWellFormed and IgnoredBitsDoNotMatter: an ADD with no ignored bit and with all of them set. -/
theorem test_witness_ignoredBits :
    decode OpcodeMap.reference 0x04611000 = .ok (.add 3 1 2) ∧
    ((0x04611000 : Word) ^^^ 0x046117FF) &&& ~~~(ignoredBits (typeOf (Instr.add 3 1 2).mnemonic)) = 0 ∧
    ((0x04611000 : Word) ^^^ 0x04611800) &&& ~~~(ignoredBits (typeOf (Instr.add 3 1 2).mnemonic)) ≠ 0 := by decide

/-- MemoryInterfaceReadsAndWritesOneWord: a canonical memory, both accepted bounds and both refused neighbours. -/
theorem test_witness_memoryInterface :
    memory8.wf ∧ memRead 2048 memory8 8 = some 42 ∧ memRead 2048 memory8 0 = some 0 ∧ memRead 2048 memory8 2047 = some 0 ∧
    memRead 2048 memory8 (-1) = none ∧ memRead 2048 memory8 2048 = none ∧
    memWrite 2048 memory8 (-1) 1 = none ∧ memWrite 2048 memory8 2048 1 = none ∧ (memWrite 2048 memory8 2047 1).isSome := by
  decide

/-- Its LOAD, STORE and fetch clauses: ea -1 and 2048, and pc 2048. -/
theorem test_witness_memoryInterface_none :
    memRead 2048 (regs []).mem (effectiveAddress (regs []) 1 0xFFFFFFFF) = none ∧
    memWrite 2048 (regs [(1, 2048)]).mem (effectiveAddress (regs [(1, 2048)]) 1 0) 7 = none ∧
    (regs [] 2048).run = .running ∧ memRead 2048 (regs [] 2048).mem (sval (regs [] 2048).pc) = none := by decide

/-- CanonicalMemoriesWithEqualReadsAreEqual: one memory reached by two orders of writing. -/
theorem test_witness_canonical :
    memory8.wf ∧ (Memory.writeByte (Memory.writeByte (Memory.writeByte [] 40 9) 32 42) 40 0).wf ∧
    (Memory.writeByte (Memory.writeByte (Memory.writeByte [] 40 9) 32 42) 40 0) = memory8 := by decide

/-- BoundsVerdictIsTheSameWrapped: both ends of the base and of the immediate, and a state for its last clause. -/
theorem test_witness_bounds :
    ImmFits 0x7FFF ∧ ImmFits 0xFFFF8000 ∧ 2 ^ 31 ≤ sval 0x7FFFFFFF + sval 0x7FFF ∧
    sval 0x80000000 + sval 0xFFFF8000 < -2 ^ 31 ∧ 2048 ≤ 2 ^ 31 - 2 ^ 15 ∧
    inBounds 2048 (sval 2047 + sval 0) ∧ ¬ inBounds 2048 (sval 2047 + sval 1) ∧
    readReg (regs [(1, 0x7FFFFFFF)]) 1 = 0x7FFFFFFF ∧ ¬ inBounds 2048 (sval 0x7FFFFFFF + sval 0x7FFF) := by decide

/-- ResetLoadsTheImage: an image that fills the memory, and an empty one. -/
theorem test_witness_reset :
    other.cfg.Valid ∧ [(0x03FFFFFF : Word)].length ≤ other.cfg.memWords ∧ ([] : List Word).length ≤ other.cfg.memWords ∧
    0 < other.cfg.memWords := by decide

/-- EveryResetMeetsTheInvariantOrIsRefused and EmptyImageHaltsInOneStep: parameters and images for each clause. -/
theorem test_witness_boot :
    (∃ s, boot other.cfg [0x03FFFFFF] = .next s) ∧ (∃ s, boot other.cfg [] = .next s) ∧
    opcodeField 0x03FFFFFF = 0 ∧ opcodeField 0xFC000000 = other.cfg.opc.code .stop ∧
    other.cfg.Valid ∧ other.cfg.memWords < [(1 : Word), 2].length ∧ ¬ { other.cfg with memWords := 0 }.Valid :=
  ⟨⟨_, rfl⟩, ⟨_, rfl⟩, by decide⟩

/-- ImageWordsFollowTheByteOrder: the first word of a five-byte file; a three-byte file has none. -/
theorem test_witness_imageBytes :
    0 < [(1 : Byte), 2, 3, 4, 5].length / 4 ∧ (imageOfBytes .little [1, 2, 3, 4, 5]).getD 0 0 = 0x04030201 ∧
    ¬ 0 < [(1 : Byte), 2, 3].length / 4 := by decide

/-- Statements about `fetches` and `runsNext`: a word at the lowest and at the highest pc. -/
theorem test_witness_fetches :
    fetches (withWord 0x04611000 (regs [])) 0x04611000 ∧
    fetches (withWord 0x04611000 (regs [] 2047)) 0x04611000 ∧
    decode (regs []).cfg.opc 0x04611000 = .ok (.add 3 1 2) := by
  unfold fetches
  decide

/-- PlacedInstructionRunsNext, InvariantKeptByEveryStep, OnlyStoreChangesMemory: the invariant with a listed memory, at
both ends of the memory. -/
theorem test_witness_invariant :
    State.Inv { regs [] with mem := memory8 } ∧ State.Inv { regs [] 2047 with mem := memory8 } ∧
    (regs []).run = .running ∧ inBounds 2048 (sval (regs []).pc) ∧ inBounds 2048 (sval (regs [] 2047).pc) ∧
    (Instr.addi 1 2 0xFFFF8000).wellFormed = true := by
  unfold State.Inv
  decide

/-- FetchOutOfBoundsFaults: both sides, at the bound. -/
theorem test_witness_fetchFault :
    (regs [] 0xFFFFFFFF).run = .running ∧ sval (regs [] 0xFFFFFFFF).pc < 0 ∧
    ((regs []).cfg.memWords : Int) ≤ sval (regs [] 2048).pc := by decide

/-- UnassignedOpcodeFaults: the lowest and the highest unassigned opcode of the reference map. -/
theorem test_witness_unassigned :
    fetches (withWord 0x80000000 (regs [])) 0x80000000 ∧ fetches (withWord 0xFC000000 (regs [])) 0xFC000000 ∧
    classOf OpcodeMap.reference (opcodeField 0x80000000) = .invalid ∧
    classOf OpcodeMap.reference (opcodeField 0xFC000000) = .invalid ∧
    classOf OpcodeMap.reference 31 ≠ .invalid := by
  unfold fetches
  decide

/-- TerminalStatesHaveNoStep: a Halted and a Faulted state. -/
theorem test_witness_terminal :
    stopOf 0 { regs [] with run := .halted } = some .stoppedHalted ∧
    stopOf 0 { regs [] with run := .faulted .divideByZero } = some (.stoppedFaulted .divideByZero) := by decide

/-- InvariantKeptByEveryStep and the statements about a step with a next state: a STORE that changes memory from a state
that meets the invariant. -/
theorem test_witness_storeStep :
    State.Inv (withWord 0x68410003 (regs [(1, 5), (2, 7)])) ∧
    runsNext (withWord 0x68410003 (regs [(1, 5), (2, 7)])) (.store 2 1 3) ∧
    inBounds 2048 (effectiveAddress (withWord 0x68410003 (regs [(1, 5), (2, 7)])) 1 3) ∧
    ∃ t, step (withWord 0x68410003 (regs [(1, 5), (2, 7)])) = .next t ∧
      t.mem.readByte 32 ≠ (withWord 0x68410003 (regs [(1, 5), (2, 7)])).mem.readByte 32 := by
  refine ⟨by unfold State.Inv; decide, ⟨0x68410003, by unfold fetches; decide, rfl⟩, by decide, _, rfl, by decide⟩

/-- StoreIsSeenByTheNextFetch: the address stored to can be the next pc. -/
theorem test_witness_storeOverNext :
    State.Inv (withWord 0x68200001 (regs [(1, 0x7C000003)])) ∧
    runsNext (withWord 0x68200001 (regs [(1, 0x7C000003)])) (.store 1 0 1) ∧
    inBounds 2048 (effectiveAddress (withWord 0x68200001 (regs [(1, 0x7C000003)])) 0 1) ∧
    sval 1 = effectiveAddress (withWord 0x68200001 (regs [(1, 0x7C000003)])) 0 1 ∧
    ∃ t, step (withWord 0x68200001 (regs [(1, 0x7C000003)])) = .next t := by
  refine ⟨by unfold State.Inv; decide, ⟨0x68200001, by unfold fetches; decide, rfl⟩, by decide, by decide, _, rfl⟩

/-- StoreThenLoadReturnsTheValue: W4 of 95_test_vectors.md, and the address reached through another register. -/
theorem test_witness_storeThenLoad :
    State.Inv (withWord 0x68410003 (regs [(1, 5), (2, 7), (6, 8)])) ∧
    inBounds 2048 (effectiveAddress (withWord 0x68410003 (regs [(1, 5), (2, 7), (6, 8)])) 1 3) ∧
    ∃ t, exec (.store 2 1 3) (withWord 0x68410003 (regs [(1, 5), (2, 7), (6, 8)])) = .next t ∧
      effectiveAddress t 6 0 = effectiveAddress (withWord 0x68410003 (regs [(1, 5), (2, 7), (6, 8)])) 1 3 := by
  refine ⟨by unfold State.Inv; decide, by decide, _, rfl, by decide⟩

/-- FaultsArePrecise and FaultsRaisedExactlyForTheirCauses: each fault reason is the outcome of some step. -/
theorem test_witness_faults :
    (after 0x80000000 (regs [])).map (·.run) = some (.faulted (.invalidOpcode 32)) ∧
    (after 0x64810000 (regs [(1, 2048)])).map (·.run) = some (.faulted (.loadOutOfBounds 2048)) ∧
    (after 0x68410000 (regs [(1, 2048)])).map (·.run) = some (.faulted (.storeOutOfBounds 2048)) ∧
    (after 0x1C611000 (regs [])).map (·.run) = some (.faulted .divideByZero) ∧
    (after 0 (regs [] 2048)).map (·.run) = some (.faulted (.fetchOutOfBounds 2048)) := by decide

/-- RunningStepsAnswerUnlessInputIsAwaited: SCALL 0 with nothing waiting, and a state whose next instruction is none. -/
theorem test_witness_awaiting :
    runsNext (withWord 0x7C000000 (regs [])) (.scall 0) ∧ (withWord 0x7C000000 (regs [])).hostInput = [] ∧
    ¬ runsNext (withWord 0x80000000 (regs [])) (.scall 0) ∧ (withWord 0x80000000 (regs [])).run = .running := by
  refine ⟨⟨0x7C000000, by unfold fetches; decide, rfl⟩, rfl, ?_, rfl⟩
  rintro ⟨w, ⟨_, hw⟩, hd⟩
  rw [show memRead (withWord 0x80000000 (regs [])).cfg.memWords (withWord 0x80000000 (regs [])).mem
    (sval (withWord 0x80000000 (regs [])).pc) = some 0x80000000 by decide] at hw
  cases hw
  cases hd

/-- HostInputMattersOnlyToSelectorZero: an ADD is not SCALL 0, and it has a next state. -/
theorem test_witness_hostInput :
    ¬ runsNext (withWord 0x04611000 (regs [])) (.scall 0) ∧
    ∃ t, step (withWord 0x04611000 (regs [])) = .next t := by
  refine ⟨?_, _, rfl⟩
  rintro ⟨w, ⟨_, hw⟩, hd⟩
  rw [show memRead (withWord 0x04611000 (regs [])).cfg.memWords (withWord 0x04611000 (regs [])).mem
    (sval (withWord 0x04611000 (regs [])).pc) = some 0x04611000 by decide] at hw
  cases hw
  cases hd

/-- RegistersWrittenPerInstruction: a computed register, a link and the I/O register change. -/
theorem test_witness_registersWritten :
    (∃ t, exec (.addi 1 0 5) (regs []) = .next t ∧ readReg t 1 ≠ readReg (regs []) 1) ∧
    (∃ t, exec (.jmpi 0 9) (regs [] 1) = .next t ∧ readReg t 0 ≠ readReg (regs [] 1) 0) ∧
    ∃ t, exec (.scall 0) { regs [] with hostInput := [7] } = .next t ∧ readReg t 20 ≠ readReg (regs []) 20 :=
  ⟨⟨_, rfl, by decide⟩, ⟨_, rfl, by decide⟩, _, rfl, by decide⟩

/-- PcAfterEachInstruction: a fetch of nothing, and JMPR with one register and with two. -/
theorem test_witness_pc :
    fetch (regs [] 2048) = none ∧ (∃ t, step (regs [] 2048) = .next t) ∧
    fetches (withWord 0x6C420000 (regs [(2, 7)])) 0x6C420000 ∧ fetches (withWord 0x6C220000 (regs [(2, 7)])) 0x6C220000 := by
  refine ⟨by decide, ⟨_, rfl⟩, ?_⟩
  unfold fetches
  decide

/-- ConsoleGrowsAndIsNeverRead and RunStateChangesOnlyByStopAndFaults: a step that emits and one that halts. -/
theorem test_witness_consoleAndHalt :
    (∃ t, step (withWord 0x7C000001 (regs [])) = .next t ∧ t.console ≠ []) ∧
    (∃ t, step (regs []) = .next t ∧ t.run = .halted) :=
  ⟨⟨_, rfl, by decide⟩, _, rfl, rfl⟩

/-- DivWritesTheQuotientOrFaults and QuotientRoundsTowardZero: divisors 0, 1 and -1, the overflowing pair, and a pair that
leaves a remainder. -/
theorem test_witness_division :
    sval (readReg (regs [(2, 1)]) 2) ≠ 0 ∧ sval (readReg (regs []) 2) = 0 ∧ sval 0xFFFFFFFF ≠ 0 ∧
    sval 0x80000000 = -2 ^ 31 ∧ sval 0xFFFFFFFF = -1 ∧ ¬ (sval 0xFFFFFFF9 = -2 ^ 31 ∧ sval 2 = -1) := by decide

/-- LoadReadsTheWordOrFaults and StoreWritesTheWordOrFaults: the two ends of the memory and their neighbours outside. -/
theorem test_witness_address :
    (regs []).mem.wf ∧ inBounds 2048 (effectiveAddress (regs []) 1 0) ∧
    inBounds 2048 (effectiveAddress (regs [(1, 2047)]) 1 0) ∧ effectiveAddress (regs []) 1 0xFFFFFFFF < 0 ∧
    ((regs []).cfg.memWords : Int) ≤ effectiveAddress (regs [(1, 2047)]) 1 1 := by decide

/-- JmprLinksThenJumps to BranzBranchesOnNonzero: each leads a Running state to a pc outside the memory. -/
theorem test_witness_jumpOutside :
    (∃ t, exec (.jmpr 1 2) (regs [(2, 2048)]) = .next t ∧ (t.cfg.memWords : Int) ≤ sval t.pc) ∧
    (∃ t, exec (.jmpi 1 2048) (regs []) = .next t ∧ (t.cfg.memWords : Int) ≤ sval t.pc) ∧
    (∃ t, exec (.braz 1 2048) (regs []) = .next t ∧ (t.cfg.memWords : Int) ≤ sval t.pc) ∧
    (∃ t, exec (.branz 2 2048) (regs [(2, 1)]) = .next t ∧ (t.cfg.memWords : Int) ≤ sval t.pc) ∧
    ∃ t, exec (.jmpr 1 2) (regs [(2, 0xFFFFFFFF)]) = .next t ∧ sval t.pc < 0 :=
  ⟨⟨_, rfl, by decide⟩, ⟨_, rfl, by decide⟩, ⟨_, rfl, by decide⟩, ⟨_, rfl, by decide⟩, _, rfl, by decide⟩

/-- ExitStatusOfTerminalStates: legal parameters, and the value of EXIT_FAULT that R9 excludes. -/
theorem test_witness_exitStatus :
    (Parameters.reference "" "" "" 1).Valid ∧ ¬ (Parameters.reference "" "" "" 0).Valid := by decide

/-- StopHalts, the three SCALL statements and SyscallTouchesOnlyIoRegisterAndConsole. -/
theorem test_witness_stopAndScall :
    opcodeField 0x03FFFFFF = 0 ∧ opcodeField 0xFC000000 = stop63.code .stop ∧
    { regs [] with hostInput := [7, 8] }.hostInput = 7 :: [8] ∧ (regs []).hostInput = [] ∧
    4 ≤ (4 : BitVec 26).toNat ∧ 4 ≤ (0x3FFFFFF : BitVec 26).toNat ∧
    syscall 0 (regs []) none = none ∧ (syscall 0 (regs []) (some 7)).isSome = true ∧
    (syscall 3 (regs []) none).isSome = true := by decide

end Sys2Proof.Tests
end

