-- ==== Sys2Proof/Proofs/Words.lean ====
section
/-! The word notation of R12 and the ALU's quotient (R16, R131). -/

namespace Sys2Proof.Machine

/-! ## `wrap32` and the two readings of a pattern (R12) -/

theorem uval_wrap32 (n : Int) : (uval (wrap32 n) : Int) = n % 2 ^ 32 := by
  rw [uval, wrap32, BitVec.toNat_ofInt]
  omega

theorem eq_wrap32_iff (n : Int) (v : Word) : v = wrap32 n ↔ (uval v : Int) = n % 2 ^ 32 := by
  rw [← uval_wrap32, Int.ofNat_inj]
  exact BitVec.toNat_inj.symm

theorem sval_bounds (v : Word) : -2 ^ 31 ≤ sval v ∧ sval v ≤ 2 ^ 31 - 1 :=
  ⟨BitVec.le_toInt v, Int.le_sub_one_of_lt BitVec.toInt_lt⟩

theorem sval_eq_ite_uval (v : Word) :
    sval v = if uval v < 2 ^ 31 then (uval v : Int) else (uval v : Int) - 2 ^ 32 := by
  rw [sval, uval, BitVec.toInt_eq_toNat_cond]
  split <;> split <;> omega

/-- An integer in the signed range survives `wrap32`. -/
theorem sval_wrap32_of_fits {n : Int} (hlo : -2 ^ 31 ≤ n) (hhi : n ≤ 2 ^ 31 - 1) : sval (wrap32 n) = n :=
  BitVec.toInt_ofInt_eq_self (by decide) hlo (Int.lt_of_le_sub_one hhi)

/-- Settles O1: the residue determines the pattern, and the top bit decides the signed reading. -/
theorem wrapIsTheResidueModuloTwoToThe32 : Obligations.WrapIsTheResidueModuloTwoToThe32 := by
  refine ⟨eq_wrap32_iff, fun v => ?_⟩
  obtain ⟨hlo, hhi⟩ := sval_bounds v
  exact ⟨hlo, hhi, Nat.le_sub_one_of_lt v.isLt, sval_eq_ite_uval v⟩

/-! ## The quotient (R16, R131) -/

theorem alu_div_of_ne {b : Word} (a : Word) (hb : sval b ≠ 0) :
    alu .div a b = .ok (wrap32 ((sval a).tdiv (sval b))) := by
  rw [alu, divide, if_neg hb, tdiv]

/-- A divisor of magnitude 2 or more halves the dividend's magnitude at least; the divisor 1 leaves it, and the divisor
-1 negates it, which leaves the signed range for -2^31 alone. -/
theorem tdiv_fits {x y : Int} (hlo : -2 ^ 31 ≤ x) (hhi : x ≤ 2 ^ 31 - 1) (hy : y ≠ 0)
    (hov : ¬ (x = -2 ^ 31 ∧ y = -1)) : -2 ^ 31 ≤ x.tdiv y ∧ x.tdiv y ≤ 2 ^ 31 - 1 := by
  by_cases hy1 : y = 1
  · subst hy1
    rw [Int.tdiv_one]
    exact ⟨hlo, hhi⟩
  by_cases hyn : y = -1
  · subst hyn
    rw [Int.tdiv_neg, Int.tdiv_one]
    omega
  · have hhalf : (x.tdiv y).natAbs ≤ x.natAbs / 2 := by
      rw [Int.natAbs_tdiv]
      exact Nat.div_le_div_left (by omega) (by decide)
    omega

/-- What truncated division leaves over is `tmod`, smaller than the divisor and of the dividend's sign. -/
theorem tdiv_remainder (x : Int) {y : Int} (hy : y ≠ 0) :
    |x - x.tdiv y * y| < |y| ∧ (0 ≤ x → 0 ≤ x - x.tdiv y * y) ∧ (x ≤ 0 → x - x.tdiv y * y ≤ 0) := by
  have hrem : x - x.tdiv y * y = x.tmod y := by
    rw [Int.mul_comm, Int.tmod_def]
  rw [hrem]
  refine ⟨?_, Int.tmod_nonneg y, fun hx => ?neg⟩
  case neg =>
    have hneg : 0 ≤ (-x).tmod y := Int.tmod_nonneg y (Int.neg_nonneg_of_nonpos hx)
    rwa [Int.neg_tmod, Int.neg_nonneg] at hneg
  rw [Int.abs_eq_natAbs, Int.abs_eq_natAbs, Int.natAbs_tmod, Int.ofNat_lt]
  exact Nat.mod_lt _ (Int.natAbs_pos.mpr hy)

/-- Settles O46: only -2^31 / -1 leaves the signed range, so elsewhere the ALU answers the truncated quotient itself. -/
theorem quotientRoundsTowardZero : Obligations.QuotientRoundsTowardZero := by
  intro a b hb
  refine ⟨_, alu_div_of_ne a hb, fun ha hb1 => ?_, fun hov => ?_⟩
  · rw [ha, hb1]
    decide
  · obtain ⟨hlo, hhi⟩ := sval_bounds a
    obtain ⟨hqlo, hqhi⟩ := tdiv_fits hlo hhi hb hov
    rw [sval_wrap32_of_fits hqlo hqhi]
    exact tdiv_remainder (sval a) hb

end Sys2Proof.Machine
end

/-! The state family: what every step keeps, how it leaves each piece of state, and the state a reset gives. -/

namespace Sys2Proof.Machine

/-! ## The invariant (R10, R36, R56) -/

/-- The two ways an instruction can leave memory: as it was, or after one accepted word write. -/
theorem Effect.mem_cases {s t : State} {i : Instr} (h : Effect s i t) :
    t.mem = s.mem ∨ ∃ ea v, memWrite s.cfg.memWords s.mem ea v = some t.mem := by
  cases h
  case stored rd rs imm m hm => exact .inr ⟨_, _, hm⟩
  all_goals exact .inl rfl

theorem Effect.cfg_eq {s t : State} {i : Instr} (h : Effect s i t) : t.cfg = s.cfg := by
  cases h <;> rfl

theorem Effect.keeps_inv {s t : State} {i : Instr} (h : Effect s i t) (hs : s.Inv) : t.Inv := by
  obtain ⟨hvalid, hwf, hin⟩ := hs
  have hmem : t.mem.wf ∧ Memory.within s.cfg.memWords t.mem := by
    rcases h.mem_cases with hsame | ⟨ea, v, hwrite⟩
    · rw [hsame]
      exact ⟨hwf, hin⟩
    · exact memWrite_keeps hwrite hwf hin
  rw [State.Inv, h.cfg_eq]
  exact ⟨hvalid, hmem⟩

/-- Settles O21: a fault touches neither memory nor parameters, and an instruction at most one word in bounds. -/
theorem invariantKeptByEveryStep : Obligations.InvariantKeptByEveryStep := by
  intro s t hs hstep
  obtain ⟨_, ⟨_, rfl⟩ | ⟨_, _, _, _, rfl⟩ | ⟨_, _, _, _, hexec⟩⟩ := step_cases hstep
  case inl => exact ⟨hs, rfl⟩
  case inr.inl => exact ⟨hs, rfl⟩
  case inr.inr =>
    have heff := effect_of_exec hexec
    exact ⟨heff.keeps_inv hs, heff.cfg_eq⟩

/-! ## The canonical form of memory (log 1) -/

theorem Memory.readByte_cons_self (p : Host.Cell) (m : Memory) : Memory.readByte (p :: m) p.1 = p.2 :=
  if_pos rfl

/-- A memory with a listed byte at `p.1` cannot read like a canonical memory whose first address is higher. -/
theorem Memory.head_not_lt {p q : Host.Cell} {m m' : Memory} (hp : Memory.wf (p :: m)) (hq : Memory.wf (q :: m'))
    (hread : ∀ a, Memory.readByte (p :: m) a = Memory.readByte (q :: m') a) : ¬ p.1 < q.1 := by
  intro hlt
  obtain ⟨_, hlisted, _⟩ := (Memory.wf_cons p m).mp hp
  obtain ⟨hrise, _, _⟩ := (Memory.wf_cons q m').mp hq
  have hbelow : Memory.readByte (q :: m') p.1 = Memory.unlisted :=
    Memory.readByte_of_lt _ _ (List.forall_mem_cons.mpr ⟨hlt, fun c hc => hlt.trans (hrise c hc)⟩)
  exact hlisted ((Memory.readByte_cons_self p m).symm.trans ((hread p.1).trans hbelow))

/-- At the first cell's address both tails read as unlisted, elsewhere as the whole memories do. -/
theorem Memory.tails_read_alike {p : Host.Cell} {m m' : Memory} (hm : Memory.wf (p :: m)) (hm' : Memory.wf (p :: m'))
    (hread : ∀ a, Memory.readByte (p :: m) a = Memory.readByte (p :: m') a) (a : Nat) :
    Memory.readByte m a = Memory.readByte m' a := by
  obtain ⟨hrise, _, _⟩ := (Memory.wf_cons p m).mp hm
  obtain ⟨hrise', _, _⟩ := (Memory.wf_cons p m').mp hm'
  by_cases ha : p.1 = a
  · subst ha
    rw [Memory.readByte_of_lt m _ hrise, Memory.readByte_of_lt m' _ hrise']
  · simpa only [Memory.readByte_cons, if_neg ha] using hread a

theorem Memory.not_reads_as_nil {p : Host.Cell} {m : Memory} (hm : Memory.wf (p :: m)) :
    Memory.readByte (p :: m) p.1 ≠ Memory.readByte [] p.1 := by
  obtain ⟨_, hlisted, _⟩ := (Memory.wf_cons p m).mp hm
  rwa [Memory.readByte_cons_self, Memory.readByte_nil]

/-- Settles O9, by induction over both lists: their first cells agree, and then their tails do. -/
theorem canonicalMemoriesWithEqualReadsAreEqual : Obligations.CanonicalMemoriesWithEqualReadsAreEqual := by
  intro m
  induction m with
  | nil =>
    rintro (_ | ⟨q, m'⟩) _ hm' hread
    · rfl
    · exact absurd (hread q.1).symm (Memory.not_reads_as_nil hm')
  | cons p m ih =>
    rintro (_ | ⟨q, m'⟩) hm hm' hread
    · exact absurd (hread p.1) (Memory.not_reads_as_nil hm)
    · have haddr : p.1 = q.1 := le_antisymm (not_lt.mp (Memory.head_not_lt hm' hm fun a => (hread a).symm))
        (not_lt.mp (Memory.head_not_lt hm hm' hread))
      have hbyte : p.2 = q.2 := by
        rw [← Memory.readByte_cons_self p m, hread, haddr, Memory.readByte_cons_self]
      obtain rfl : p = q := Prod.ext haddr hbyte
      obtain ⟨_, _, hwf⟩ := (Memory.wf_cons p m).mp hm
      obtain ⟨_, _, hwf'⟩ := (Memory.wf_cons p m').mp hm'
      rw [ih m' hwf hwf' (Memory.tails_read_alike hm hm' hread)]

/-! ## Reset (R42, R240) -/

/-- The state a reset with an accepted image gives (R42). -/
def resetState (cfg : Config) (img : List Word) : State :=
  { State.reset with cfg := cfg, mem := writeImage [] 0 img }

/-- A reset has a next state exactly for legal parameters and an image that fits (R37, R10). -/
theorem boot_eq_next_iff {cfg : Config} {img : List Word} {s : State} :
    boot cfg img = .next s ↔ cfg.Valid ∧ img.length ≤ cfg.memWords ∧ s = resetState cfg img := by
  unfold boot
  split
  · next hinvalid => exact ⟨nofun, fun ⟨hvalid, _, _⟩ => absurd hvalid hinvalid⟩
  · next hvalid =>
    split
    · next hlong => exact ⟨nofun, fun ⟨_, hfits, _⟩ => absurd hfits (Nat.not_le.mpr hlong)⟩
    · next hfits =>
      constructor
      · rintro ⟨⟩
        exact ⟨not_not.mp hvalid, Nat.not_lt.mp hfits, rfl⟩
      · rintro ⟨_, _, rfl⟩
        rfl

theorem readReg_resetState (cfg : Config) (img : List Word) (r : Reg) : readReg (resetState cfg img) r = 0 := by
  simp [readReg, resetState, State.reset]

@[simp] theorem Memory.readWord_nil (i : Nat) : Memory.readWord [] i = 0 := by
  simp only [Memory.readWord, Memory.readByte_nil]
  rfl

theorem memRead_resetState {cfg : Config} {img : List Word} (hfits : img.length ≤ cfg.memWords) {i : Nat}
    (hi : i < cfg.memWords) :
    memRead cfg.memWords (resetState cfg img).mem i = some (if i < img.length then img.getD i 0 else 0) := by
  obtain ⟨_, _, hread⟩ := writeImage_spec img [] 0 cfg.memWords Memory.wf_nil (by simp) (by omega)
  refine memRead_eq_some.mpr ⟨by omega, ?_⟩
  simpa [resetState] using hread i

/-- Settles O11: an accepted reset gives `resetState`, whose fields are R42's. -/
theorem resetLoadsTheImage : Obligations.ResetLoadsTheImage := by
  intro cfg img hvalid hfits
  exact ⟨resetState cfg img, boot_eq_next_iff.mpr ⟨hvalid, hfits, rfl⟩, readReg_resetState cfg img, rfl, rfl, rfl, rfl,
    fun _ hi => memRead_resetState hfits hi⟩

/-- Settles O13: the reference parameters are legal and the empty memory is canonical. -/
theorem resetMeetsTheInvariant : Obligations.ResetMeetsTheInvariant :=
  ⟨⟨reference_valid, reset_mem_wf, nofun⟩, boot_eq_next_iff.mpr ⟨reference_valid, Nat.zero_le _, rfl⟩⟩

/-- Settles O20: only a Running state has a next state, and a reset starts Running at pc 0. -/
theorem terminalStatesHaveNoStep : Obligations.TerminalStatesHaveNoStep := by
  refine ⟨fun s hstopped t hstep => ?_, fun s hs => ?_, fun s r hs => ?_, fun cfg img s hboot => ?_⟩
  · obtain ⟨hrunning, _⟩ := step_cases hstep
    exact hstopped hrunning
  · rw [step, hs]
  · rw [step, hs]
  · obtain ⟨_, _, rfl⟩ := boot_eq_next_iff.mp hboot
    exact ⟨rfl, rfl⟩

/-! ## Registers (R24) -/

/-- The register table's writes column: the one register an instruction can change. -/
def registerWritten (s : State) : Instr → Option Reg
  | .jmpr rd _ | .jmpi rd _ => some rd
  | .scall sel => if sel = 0 then some s.cfg.ioReg else none
  | i => computedReg i

theorem registerWritten_of_computed {i : Instr} {rd : Reg} (s : State) (h : computedReg i = some rd) :
    registerWritten s i = some rd := by
  cases i
  case jmpr | jmpi | scall => cases h
  all_goals exact h

theorem eq_of_changed_by_writeReg {s : State} {rd r : Reg} {v : Word} (h : readReg (writeReg s rd v) r ≠ readReg s r) :
    rd = r := by
  by_contra hne
  exact h (readReg_writeReg_of_ne s v (Ne.symm hne))

theorem Effect.registerWritten_of_changed {s t : State} {i : Instr} {r : Reg} (h : Effect s i t)
    (hr : readReg t r ≠ readReg s r) : registerWritten s i = some r := by
  cases h
  case computed rd v hi =>
    rw [registerWritten_of_computed s hi, eq_of_changed_by_writeReg hr]
  case jumpedReg rd ra => exact congrArg some (eq_of_changed_by_writeReg hr)
  case jumped rd addr => exact congrArg some (eq_of_changed_by_writeReg hr)
  case inputRead v rest hi => exact congrArg some (eq_of_changed_by_writeReg hr)
  all_goals exact absurd rfl hr

/-- Settles O26: the statement is the table `registerWritten`, row by row. -/
theorem registersWrittenPerInstruction : Obligations.RegistersWrittenPerInstruction := by
  intro i s t r hexec hr
  have hw := (effect_of_exec hexec).registerWritten_of_changed hr
  cases i
  case stop | store | braz | branz => cases hw
  case scall sel =>
    rw [registerWritten] at hw
    split at hw
    · next hsel => exact ⟨hsel, (Option.some.inj hw).symm⟩
    · cases hw
  all_goals exact (Option.some.inj hw).symm

/-! ## The program counter (R30) -/

/-- The pc an instruction leaves, from a state `s` whose pc is already past it (R29). -/
def pcAfter (s : State) : Instr → Word
  | .jmpr rd ra => if rd = ra then s.pc else readReg s ra
  | .jmpi _ addr => addr
  | .braz rs addr => if readReg s rs = 0 then addr else s.pc
  | .branz rs addr => if readReg s rs ≠ 0 then addr else s.pc
  | _ => s.pc

theorem pcAfter_of_computed {i : Instr} {rd : Reg} (s : State) (h : computedReg i = some rd) : pcAfter s i = s.pc := by
  cases i
  case jmpr | jmpi | braz | branz => cases h
  all_goals rfl

theorem Effect.pc_eq {s t : State} {i : Instr} (h : Effect s i t) : t.pc = pcAfter s i := by
  cases h
  case computed rd v hi => exact (pcAfter_of_computed s hi).symm
  case jumpedReg rd ra =>
    rw [setPc_pc, readReg_writeReg, pcAfter]
    exact if_congr eq_comm rfl rfl
  case brazTaken rs addr hz => exact (if_pos hz).symm
  case brazNot rs addr hz => exact (if_neg hz).symm
  case branzTaken rs addr hz => exact (if_pos hz).symm
  case branzNot rs addr hz => exact (if_neg (not_not.mpr hz)).symm
  all_goals rfl

theorem fetch_of_fetches {s : State} {w : Word} (h : fetches s w) : fetch s = some w := h.2

/-- Settles O27: the statement is the table `pcAfter` on the state past the word, whose pc is the successor. -/
theorem pcAfterEachInstruction : Obligations.PcAfterEachInstruction := by
  intro s t hstep
  obtain ⟨_, ⟨hf, rfl⟩ | ⟨w, op, hf, hd, rfl⟩ | ⟨w, i, hf, hd, hexec⟩⟩ := step_cases hstep
  case inl => exact ⟨fun _ => rfl, fun w' hw => nomatch hf.symm.trans (fetch_of_fetches hw)⟩
  case inr.inl =>
    refine ⟨fun hnone => (nomatch hf.symm.trans hnone), fun w' hw => ?_⟩
    obtain rfl : w = w' := Option.some.inj (hf.symm.trans (fetch_of_fetches hw))
    rw [hd]
    exact advancePc_pc_eq s
  case inr.inr =>
    refine ⟨fun hnone => (nomatch hf.symm.trans hnone), fun w' hw => ?_⟩
    obtain rfl : w = w' := Option.some.inj (hf.symm.trans (fetch_of_fetches hw))
    rw [hd, (effect_of_exec hexec).pc_eq, ← advancePc_pc_eq s]
    cases i <;> rfl

/-! ## One equation per way a Running state steps (R101, R102, R106) -/

theorem step_of_fetch_none {s : State} (hr : s.run = .running) (hf : fetch s = none) :
    step s = .next (raiseFault s (.fetchOutOfBounds s.pc)) := by
  rw [step, hr, stepRunning, hf]

theorem step_of_invalidOpcode {s : State} {w : Word} {op : Opcode} (hr : s.run = .running) (hf : fetch s = some w)
    (hd : decode s.cfg.opc w = .error (.invalidOpcode op)) :
    step s = .next (raiseFault (advancePc s) (.invalidOpcode op)) := by
  simp only [step, hr, stepRunning, hf, hd]

theorem step_of_decoded {s : State} {w : Word} {i : Instr} (hr : s.run = .running) (hf : fetch s = some w)
    (hd : decode s.cfg.opc w = .ok i) : step s = exec i (advancePc s) := by
  simp only [step, hr, stepRunning, hf, hd]

/-! ## The run state (R34, R103) -/

/-- A Running state that fetched `w` runs next exactly what `w` decodes to. -/
theorem runsNext_iff {s : State} {w : Word} {i : Instr} (hr : s.run = .running) (hf : fetch s = some w) :
    runsNext s i ↔ decode s.cfg.opc w = .ok i := by
  constructor
  · rintro ⟨w', hw', hd⟩
    rwa [Option.some.inj (hf.symm.trans (fetch_of_fetches hw'))]
  · exact fun hd => ⟨w, ⟨hr, hf⟩, hd⟩

/-- An instruction run from a Running state halts exactly when it is STOP. -/
theorem Effect.halted_iff {s t : State} {i : Instr} (h : Effect s i t) (hs : s.run = .running) :
    t.run = .halted ↔ i = .stop := by
  cases h
  case computed rd v hi =>
    rw [writeReg_run, hs]
    exact ⟨nofun, fun e => by rw [e] at hi; cases hi⟩
  case halted => simp
  all_goals simp [hs]

/-- Settles O28: a fault leaves the state Faulted, and of the instructions only STOP halts. -/
theorem runStateChangesOnlyByStopAndFaults : Obligations.RunStateChangesOnlyByStopAndFaults := by
  intro s t hstep
  refine ⟨?_, ?_⟩
  case refine_2 =>
    rcases t.run with _ | _ | r
    · exact .inl rfl
    · exact .inr (.inl rfl)
    · exact .inr (.inr ⟨r, rfl⟩)
  obtain ⟨hr, ⟨hf, rfl⟩ | ⟨w, op, hf, hd, rfl⟩ | ⟨w, i, hf, hd, hexec⟩⟩ := step_cases hstep
  case inl => exact ⟨nofun, fun ⟨_, hw, _⟩ => nomatch hf.symm.trans (fetch_of_fetches hw)⟩
  case inr.inl =>
    rw [runsNext_iff hr hf, hd]
    exact ⟨nofun, nofun⟩
  case inr.inr =>
    rw [runsNext_iff hr hf, hd, (effect_of_exec hexec).halted_iff hr, Except.ok.injEq]

/-! ## The console (R38, R190) -/

/-- `f` takes `s` to `t` by appending `es` to the console, whatever the console held. -/
def AppendsToConsole (f : State → Result) (s t : State) (es : List ConsoleEvent) : Prop :=
  t.console = s.console ++ es ∧ ∀ c, f { s with console := c } = .next { t with console := c ++ es }

/-- An outcome whose next state, if it has one, holds the console `c`. -/
def withConsole (c : List ConsoleEvent) : Result → Result
  | .next t => .next { t with console := c }
  | .fault r => .fault r
  | .refused r => .refused r

theorem writeBack_withConsole (rd : Reg) (v : Except FaultReason Word) (s : State) (c : List ConsoleEvent) :
    writeBack rd v { s with console := c } = withConsole c (writeBack rd v s) := by
  cases v <;> rfl

theorem execStore_of_written {rd rs : Reg} {imm : Word} {s : State} {m : Memory}
    (h : memWrite s.cfg.memWords s.mem (effectiveAddress s rs imm) (readReg s rd) = some m) :
    execStore rd rs imm s = .next (setMem s m) := by
  rw [execStore, h]

theorem execStore_of_refused {rd rs : Reg} {imm : Word} {s : State}
    (h : memWrite s.cfg.memWords s.mem (effectiveAddress s rs imm) (readReg s rd) = none) :
    execStore rd rs imm s = .next (raiseFault s (.storeOutOfBounds (effectiveAddress s rs imm))) := by
  rw [execStore, h]

theorem execStore_withConsole (rd rs : Reg) (imm : Word) (s : State) (c : List ConsoleEvent) :
    execStore rd rs imm { s with console := c } = withConsole c (execStore rd rs imm s) := by
  cases h : memWrite s.cfg.memWords s.mem (effectiveAddress s rs imm) (readReg s rd) with
  | some m =>
    rw [execStore_of_written h, execStore_of_written (s := { s with console := c }) h]
    rfl
  | none =>
    rw [execStore_of_refused h, execStore_of_refused (s := { s with console := c }) h]
    rfl

theorem branchIf_withConsole (taken : Bool) (addr : Word) (s : State) (c : List ConsoleEvent) :
    branchIf taken addr { s with console := c } = { branchIf taken addr s with console := c } := by
  cases taken <;> rfl

/-- No instruction but SCALL depends on the console. Of the rest only DIV, DIVI, LOAD and STORE can end in two ways and
the branches go two ways; the others compute to the same update of both states. -/
theorem exec_withConsole {i : Instr} (hi : ∀ sel, i ≠ .scall sel) (s : State) (c : List ConsoleEvent) :
    exec i { s with console := c } = withConsole c (exec i s) := by
  cases i
  case scall sel => exact absurd rfl (hi sel)
  case store rd rs imm => exact execStore_withConsole rd rs imm s c
  case braz rs addr => exact congrArg Host.Outcome.next (branchIf_withConsole _ addr s c)
  case branz rs addr => exact congrArg Host.Outcome.next (branchIf_withConsole _ addr s c)
  case div | divi | load => exact writeBack_withConsole _ _ s c
  all_goals rfl

theorem Effect.console_eq {s t : State} {i : Instr} (h : Effect s i t) (hi : ∀ sel, i ≠ .scall sel) :
    t.console = s.console := by
  cases h
  case inputRead | labeled | decimal | char => exact absurd rfl (hi _)
  all_goals rfl

/-- An unrecognized selector does nothing (R199). -/
theorem execScall_of_four_le {sel : BitVec 26} (h : 4 ≤ sel.toNat) (s : State) : execScall sel s = .next s := by
  rcases execScall_cases sel s with ⟨rfl, _⟩ | ⟨_, _, rfl, _⟩ | ⟨rfl, _⟩ | ⟨rfl, _⟩ | ⟨rfl, _⟩ | ⟨_, _, _, _, e⟩
  case inr.inr.inr.inr.inr => exact e
  all_goals exact absurd h (by decide)

/-- What each recognized selector appends does not depend on the console. -/
theorem scall_appends {sel : BitVec 26} {s t : State} (h : exec (.scall sel) s = .next t) :
    ∃ es, AppendsToConsole (exec (.scall sel)) s t es ∧ (es ≠ [] → sel.toNat ≤ 3) := by
  cases effect_of_exec h
  case computed rd v hi => cases hi
  case inputRead v rest hi =>
    refine ⟨[.prompt, .input v], ⟨List.append_assoc .., fun c => ?_⟩, fun _ => by decide⟩
    simp [exec, execScall, syscall, dropInput, hi, emit, writeReg]
  case labeled => exact ⟨_, ⟨rfl, fun c => rfl⟩, fun _ => by decide⟩
  case decimal => exact ⟨_, ⟨rfl, fun c => rfl⟩, fun _ => by decide⟩
  case char => exact ⟨_, ⟨rfl, fun c => rfl⟩, fun _ => by decide⟩
  case unrecognized hsel =>
    refine ⟨[], ⟨(List.append_nil _).symm, fun c => ?_⟩, nofun⟩
    rw [List.append_nil]
    exact execScall_of_four_le hsel _

/-- Every instruction only appends to the console, and only SCALL 0 to 3 appends anything. -/
theorem exec_appends {i : Instr} {s t : State} (h : exec i s = .next t) :
    ∃ es, AppendsToConsole (exec i) s t es ∧ (es ≠ [] → ∃ sel, i = .scall sel ∧ sel.toNat ≤ 3) := by
  by_cases hi : ∃ sel, i = .scall sel
  · obtain ⟨sel, rfl⟩ := hi
    obtain ⟨es, happ, hsel⟩ := scall_appends h
    exact ⟨es, happ, fun hne => ⟨sel, rfl, hsel hne⟩⟩
  · have hnot : ∀ sel, i ≠ .scall sel := not_exists.mp hi
    refine ⟨[], ⟨?_, fun c => ?_⟩, nofun⟩
    · rw [(effect_of_exec h).console_eq hnot, List.append_nil]
    · rw [exec_withConsole hnot, h, List.append_nil]
      rfl

/-- Settles O29: fetch and decode read no console, a fault writes none, and an instruction appends. -/
theorem consoleGrowsAndIsNeverRead : Obligations.ConsoleGrowsAndIsNeverRead := by
  intro s t hstep
  obtain ⟨hr, ⟨hf, rfl⟩ | ⟨w, op, hf, hd, rfl⟩ | ⟨w, i, hf, hd, hexec⟩⟩ := step_cases hstep
  case inl =>
    refine ⟨[], (List.append_nil _).symm, nofun, fun c => ?_⟩
    rw [List.append_nil]
    exact step_of_fetch_none (s := { s with console := c }) hr hf
  case inr.inl =>
    refine ⟨[], (List.append_nil _).symm, nofun, fun c => ?_⟩
    rw [List.append_nil]
    exact step_of_invalidOpcode (s := { s with console := c }) hr hf hd
  case inr.inr =>
    obtain ⟨es, ⟨hconsole, hreplay⟩, hscall⟩ := exec_appends hexec
    refine ⟨es, hconsole, fun hne => ?_, fun c => ?_⟩
    · obtain ⟨sel, rfl, hsel⟩ := hscall hne
      exact ⟨sel, (runsNext_iff hr hf).mpr hd, hsel⟩
    · exact (step_of_decoded (s := { s with console := c }) hr hf hd).trans (hreplay c)

end Sys2Proof.Machine

/-! The memory family: the word interface, the words of a program file, the placed instruction, and who changes memory. -/

namespace Sys2Proof.Laws.Fields

/-- Every instruction's fields survive in its word (R90). -/
theorem statement_of : ∀ i : Instr, Statement i
  | .stop => stop
  | .add rd rs1 rs2 => add rd rs1 rs2
  | .addi rd rs imm => addi rd rs imm
  | .sub rd rs1 rs2 => sub rd rs1 rs2
  | .subi rd rs imm => subi rd rs imm
  | .mul rd rs1 rs2 => mul rd rs1 rs2
  | .muli rd rs imm => muli rd rs imm
  | .div rd rs1 rs2 => div rd rs1 rs2
  | .divi rd rs imm => divi rd rs imm
  | .and rd rs1 rs2 => and rd rs1 rs2
  | .andi rd rs imm => andi rd rs imm
  | .or rd rs1 rs2 => or rd rs1 rs2
  | .ori rd rs imm => ori rd rs imm
  | .xor rd rs1 rs2 => xor rd rs1 rs2
  | .xori rd rs imm => xori rd rs imm
  | .shl rd rs1 rs2 => shl rd rs1 rs2
  | .shli rd rs imm => shli rd rs imm
  | .shr rd rs1 rs2 => shr rd rs1 rs2
  | .shri rd rs imm => shri rd rs imm
  | .slt rd rs1 rs2 => slt rd rs1 rs2
  | .slti rd rs imm => slti rd rs imm
  | .sle rd rs1 rs2 => sle rd rs1 rs2
  | .slei rd rs imm => slei rd rs imm
  | .seq rd rs1 rs2 => seq rd rs1 rs2
  | .seqi rd rs imm => seqi rd rs imm
  | .load rd rs imm => load rd rs imm
  | .store rd rs imm => store rd rs imm
  | .jmpr rd ra => jmpr rd ra
  | .jmpi rd addr => jmpi rd addr
  | .braz rs addr => braz rs addr
  | .branz rs addr => branz rs addr
  | .scall sel => scall sel

end Sys2Proof.Laws.Fields

namespace Sys2Proof

/-! ## Decoding an encoded instruction (R85, R90) -/

/-- Under a legal map a mnemonic's opcode decodes to that mnemonic: R10 keeps it apart from every other one's. -/
theorem decode_of_code {opc : OpcodeMap} (hopc : opc.Valid) {w : Word} {m : Mnemonic}
    (hw : opcodeField w = opc.code m) : decode opc w = .ok (instrOf m w) := by
  rcases decode_cases opc w with ⟨hhalt, hd⟩ | ⟨m', hm', hcode, hd⟩ | ⟨hnone, _, hstop, _⟩
  · suffices m = .stop by rw [hd, this, instrOf]
    by_contra hne
    obtain ⟨hzero, hstop, _⟩ := hopc m (Mnemonic.mem_assigned m hne)
    rw [hw] at hhalt
    exact hhalt.elim hzero hstop
  · suffices m' = m by rw [hd, this]
    obtain ⟨_, hstop, hinj⟩ := hopc m' hm'
    have hsame : opc.code m' = opc.code m := hcode.trans hw
    by_cases hm : m = .stop
    · exact absurd (hm ▸ hsame) hstop
    · exact hinj m (Mnemonic.mem_assigned m hm) hsame
  · by_cases hm : m = .stop
    · exact absurd (hm ▸ hw) hstop
    · exact absurd hw.symm (hnone m (Mnemonic.mem_assigned m hm))

/-- The decoder inverts the encoder on what an instruction word can hold (R90). -/
theorem decode_encode {opc : OpcodeMap} (hopc : opc.Valid) {i : Instr} (hi : i.wellFormed = true) :
    decode opc (encode opc i) = .ok i := by
  obtain ⟨hop, hfields⟩ := Laws.Fields.statement_of i hi (opc.code i.mnemonic)
  rw [encode, decode_of_code hopc hop, hfields]

end Sys2Proof

namespace Sys2Proof.Machine

/-! ## The memory interface (R55, R56, R57) -/

theorem memRead_isSome_iff {n : Nat} {m : Memory} {ea : Int} : (memRead n m ea).isSome = true ↔ inBounds n ea := by
  rw [Option.isSome_iff_ne_none, ne_eq, memRead_eq_none, not_not]

theorem memWrite_isSome_iff {n : Nat} {m : Memory} {ea : Int} {v : Word} :
    (memWrite n m ea v).isSome = true ↔ inBounds n ea := by
  rw [Option.isSome_iff_ne_none, ne_eq, memWrite_eq_none, not_not]

theorem memWrite_of_inBounds {n : Nat} {ea : Int} (m : Memory) (v : Word) (h : inBounds n ea) :
    ∃ m', memWrite n m ea v = some m' :=
  Option.isSome_iff_exists.mp (memWrite_isSome_iff.mpr h)

section AcceptedWrite

variable {n : Nat} {m m' : Memory} {ea : Int} {v : Word}

theorem memRead_memWrite_self (h : memWrite n m ea v = some m') (hwf : m.wf) : memRead n m' ea = some v := by
  obtain ⟨hin, rfl⟩ := memWrite_eq_some.mp h
  exact memRead_eq_some.mpr ⟨hin, Memory.readWord_writeWord_self _ _ _ hwf⟩

theorem memRead_memWrite_of_ne (h : memWrite n m ea v = some m') (hwf : m.wf) {ea' : Int} (hne : ea' ≠ ea) :
    memRead n m' ea' = memRead n m ea' := by
  obtain ⟨⟨hnonneg, _⟩, rfl⟩ := memWrite_eq_some.mp h
  unfold memRead
  split
  · next hin => rw [Memory.readWord_writeWord_of_ne _ _ hwf (by omega)]
  · rfl

theorem wf_of_memWrite (h : memWrite n m ea v = some m') (hwf : m.wf) : m'.wf := by
  obtain ⟨_, rfl⟩ := memWrite_eq_some.mp h
  exact Memory.wf_writeWord _ _ _ hwf

/-- A byte that an accepted write changes belongs to the word written. -/
theorem word_of_byte_changed_by_memWrite (h : memWrite n m ea v = some m') (hwf : m.wf) {a : Nat}
    (ha : m'.readByte a ≠ m.readByte a) : ((a / 4 : Nat) : Int) = ea := by
  obtain ⟨⟨hnonneg, _⟩, rfl⟩ := memWrite_eq_some.mp h
  by_contra hne
  exact ha (Memory.readByte_writeWord_of_ne m _ a v hwf (by omega))

end AcceptedWrite

theorem execLoad_of_refused {rd rs : Reg} {imm : Word} {s : State}
    (h : memRead s.cfg.memWords s.mem (effectiveAddress s rs imm) = none) :
    execLoad rd rs imm s = .next (raiseFault s (.loadOutOfBounds (effectiveAddress s rs imm))) := by
  rw [execLoad, loadValue, h, writeBack]

/-- Settles O8: each caller raises its own fault on a none answer, and an accepted write is one word's. -/
theorem memoryInterfaceReadsAndWritesOneWord : Obligations.MemoryInterfaceReadsAndWritesOneWord := by
  refine ⟨fun s rd rs imm => ⟨execLoad_of_refused, execStore_of_refused, step_of_fetch_none⟩, fun n m ea v hwf =>
    ⟨memRead_isSome_iff, memWrite_isSome_iff, fun m' hwrite => ?_⟩⟩
  exact ⟨memRead_memWrite_self hwrite hwf, fun _ => memRead_memWrite_of_ne hwrite hwf, wf_of_memWrite hwrite hwf⟩

/-! ## The words of a program file (R52) -/

/-- A byte shifted above every bit of `x` adds its multiple of `2 ^ k`. -/
theorem uval_or_shifted_byte {x : Word} {k : Nat} (b : Byte) (hk : k ≤ 24) (hx : uval x < 2 ^ k) :
    uval (x ||| b.setWidth 32 <<< k) = uval x + 2 ^ k * b.toNat := by
  have hfits : 2 ^ k * b.toNat < 2 ^ 32 := calc
    2 ^ k * b.toNat < 2 ^ k * 2 ^ 8 := Nat.mul_lt_mul_of_pos_left b.isLt (Nat.two_pow_pos k)
    _ ≤ 2 ^ 24 * 2 ^ 8 := Nat.mul_le_mul_right _ (Nat.pow_le_pow_right (by decide) hk)
  have hbyte : (b.setWidth 32 <<< k).toNat = 2 ^ k * b.toNat := by
    rw [BitVec.toNat_shiftLeft, BitVec.toNat_setWidth_of_le (by decide), Nat.shiftLeft_eq, Nat.mul_comm,
      Nat.mod_eq_of_lt hfits]
  rw [uval, BitVec.toNat_or, hbyte, Nat.or_comm, ← Nat.two_pow_add_eq_or_of_lt hx, Nat.add_comm]

theorem uval_wordOfBytes_little (b0 b1 b2 b3 : Byte) :
    uval (wordOfBytes .little b0 b1 b2 b3) =
      b0.toNat + 2 ^ 8 * b1.toNat + 2 ^ 16 * b2.toNat + 2 ^ 24 * b3.toNat := by
  have h0 := b0.isLt
  have h1 := b1.isLt
  have h2 := b2.isLt
  have e0 : uval (b0.setWidth 32) = b0.toNat := BitVec.toNat_setWidth_of_le (by decide)
  have e1 := uval_or_shifted_byte (k := 8) b1 (by decide) (e0 ▸ h0)
  have e2 := uval_or_shifted_byte (k := 16) b2 (by decide) (by rw [e1, e0]; omega)
  rw [wordOfBytes, uval_or_shifted_byte b3 (by decide) (by rw [e2, e1, e0]; omega), e2, e1, e0]

/-- Big-endian order reads the four bytes in reverse. -/
theorem wordOfBytes_big (b0 b1 b2 b3 : Byte) : wordOfBytes .big b0 b1 b2 b3 = wordOfBytes .little b3 b2 b1 b0 := by
  simp only [wordOfBytes]
  rw [BitVec.or_comm (b0.setWidth 32 <<< 24), BitVec.or_comm _ (b2.setWidth 32 <<< 8), BitVec.or_comm _ (b3.setWidth 32),
    ← BitVec.or_assoc, ← BitVec.or_assoc]

theorem length_imageOfBytes (o : ByteOrder) : ∀ file, (imageOfBytes o file).length = file.length / 4
  | _ :: _ :: _ :: _ :: rest => by
    rw [imageOfBytes, List.length_cons, length_imageOfBytes o rest]
    exact (Nat.add_div_right rest.length (by decide)).symm
  | [] | [_] | [_, _] | [_, _, _] => by simp [imageOfBytes]

/-- Word `i` of the image is put together from the four bytes from `4 * i` up. -/
theorem getD_imageOfBytes (o : ByteOrder) : ∀ (file : List Byte) (i : Nat), i < file.length / 4 →
    (imageOfBytes o file).getD i 0 = wordOfBytes o (file.getD (4 * i) 0) (file.getD (4 * i + 1) 0)
      (file.getD (4 * i + 2) 0) (file.getD (4 * i + 3) 0)
  | _ :: _ :: _ :: _ :: _, 0, _ => rfl
  | _ :: _ :: _ :: _ :: rest, i + 1, hi => by
    have hrest : i < rest.length / 4 := by
      simp only [List.length_cons] at hi
      omega
    exact getD_imageOfBytes o rest i hrest
  | [], i, hi | [_], i, hi | [_, _], i, hi | [_, _, _], i, hi => by simp at hi

/-- Settles O12: word by word, the big-endian value being the little-endian one of the bytes reversed. -/
theorem imageWordsFollowTheByteOrder : Obligations.ImageWordsFollowTheByteOrder := by
  intro file i
  refine ⟨length_imageOfBytes _ file, length_imageOfBytes _ file, fun hi => ⟨?_, ?_⟩, rfl, fun _ => rfl⟩
  · rw [getD_imageOfBytes _ file i hi, uval_wordOfBytes_little]
  · rw [getD_imageOfBytes _ file i hi, wordOfBytes_big, uval_wordOfBytes_little]
    omega

/-! ## The placed instruction (R100, R101) -/

theorem withFetchWord_uval (s : State) (w : Word) : s.withFetchWord 32 (uval w) = placeAtPc s w := by
  rw [State.withFetchWord, uval, Nat.mod_eq_of_lt w.isLt, BitVec.ofNat_toNat, BitVec.setWidth_eq]

theorem placeAtPc_of_written {s : State} {w : Word} {m : Memory}
    (h : memWrite s.cfg.memWords s.mem (sval s.pc) w = some m) : placeAtPc s w = setMem s m := by
  rw [placeAtPc, h]

theorem advancePc_eq (s : State) : advancePc s = { s with pc := s.pc + 1 } :=
  congrArg (fun p => { s with pc := p }) (advancePc_pc_eq s)

/-- Settles O17: the placed word is fetched, and it decodes to its instruction. -/
theorem placedInstructionRunsNext : Obligations.PlacedInstructionRunsNext := by
  intro s i hs hr hin hi
  obtain ⟨hvalid, hwf, _⟩ := hs
  obtain ⟨_, _, hopc⟩ := hvalid
  obtain ⟨m, hm⟩ := memWrite_of_inBounds s.mem (encode s.cfg.opc i) hin
  rw [withFetchWord_uval, placeAtPc_of_written hm]
  refine ⟨fun ea hne => memRead_memWrite_of_ne hm hwf hne, ?_⟩
  have hfetch : fetch (setMem s m) = some (encode s.cfg.opc i) := memRead_memWrite_self hm hwf
  have hstep := step_of_decoded (s := setMem s m) hr hfetch (decode_encode hopc hi)
  rwa [advancePc_eq, setMem_pc] at hstep

/-! ## Who changes memory (R65, R67) -/

/-- Of the instructions only STORE changes a byte, and that byte lies in the word at its effective address. -/
theorem Effect.store_of_byte_changed {s t : State} {i : Instr} (h : Effect s i t) (hwf : s.mem.wf) {a : Nat}
    (ha : t.mem.readByte a ≠ s.mem.readByte a) :
    ∃ rd rs imm, i = .store rd rs imm ∧ ((a / 4 : Nat) : Int) = effectiveAddress s rs imm := by
  cases h
  case stored rd rs imm m hm => exact ⟨rd, rs, imm, rfl, word_of_byte_changed_by_memWrite hm hwf ha⟩
  all_goals exact absurd rfl ha

/-- Settles O25: a fault leaves memory alone, and so does every instruction but STORE. -/
theorem onlyStoreChangesMemory : Obligations.OnlyStoreChangesMemory := by
  intro s t a hs hstep ha
  obtain ⟨_, hwf, _⟩ := hs
  obtain ⟨hr, ⟨_, rfl⟩ | ⟨_, _, _, _, rfl⟩ | ⟨w, i, hf, hd, hexec⟩⟩ := step_cases hstep
  case inl => exact absurd rfl ha
  case inr.inl => exact absurd rfl ha
  case inr.inr =>
    obtain ⟨rd, rs, imm, rfl, haddr⟩ := (effect_of_exec hexec).store_of_byte_changed hwf ha
    exact ⟨rd, rs, imm, (runsNext_iff hr hf).mpr hd, haddr⟩

/-- Settles O31: the stored word reads back at its address, which is where the next fetch reads. -/
theorem storeIsSeenByTheNextFetch : Obligations.StoreIsSeenByTheNextFetch := by
  intro s t rd rs imm hs hnext hin hstep p hp
  obtain ⟨_, hwf, _⟩ := hs
  obtain ⟨w, ⟨hr, hf⟩, hd⟩ := hnext
  obtain ⟨m, hm⟩ := memWrite_of_inBounds s.mem (readReg s rd) hin
  have hstore : step s = .next (setMem (advancePc s) m) :=
    (step_of_decoded hr hf hd).trans (execStore_of_written (s := advancePc s) hm)
  cases hstep.symm.trans hstore
  refine ⟨hr, ?_⟩
  rw [hp]
  exact memRead_memWrite_self hm hwf

end Sys2Proof.Machine

/-! The encoding family: the bits a field is read from, and what the dispatch table and the decoder answer. -/

namespace Sys2Proof

/-- Settles O4, by the round trip of each instruction's fields. -/
theorem decodeOfEncodeIsTheInstruction : Obligations.DecodeOfEncodeIsTheInstruction :=
  fun _ _ hopc hi => decode_encode hopc hi

/-! ## Fields in arithmetic on the word (R73 to R79) -/

theorem opcodeField_eq_ofNat (w : Word) : opcodeField w = BitVec.ofNat 6 (uval w / 2 ^ 26) := by
  rw [opcodeField, BitVec.extractLsb', Nat.shiftRight_eq_div_pow]

theorem regField_eq_ofNat (lo : Nat) (w : Word) : regField lo w = Fin.ofNat 32 (uval w / 2 ^ lo) := by
  apply Fin.ext
  rw [regField, BitVec.extractLsb'_toNat, Nat.shiftRight_eq_div_pow]
  exact Nat.mod_mod (uval w / 2 ^ lo) 32

theorem toNat_lowBits (n : Nat) (w : Word) : (w.extractLsb' 0 n).toNat = uval w % 2 ^ n := by
  rw [BitVec.extractLsb'_toNat, Nat.shiftRight_zero]

/-- The immediate is the 16-bit two's complement number in the low half of the word (R74). -/
theorem immField_eq_wrap32 (w : Word) :
    immField w = wrap32 (if uval w % 2 ^ 16 < 2 ^ 15 then ((uval w % 2 ^ 16 : Nat) : Int)
      else ((uval w % 2 ^ 16 : Nat) : Int) - 2 ^ 16) := by
  rw [immField, sext32, BitVec.signExtend, BitVec.toInt_eq_toNat_cond, toNat_lowBits, wrap32]
  congr 1
  split <;> split <;> omega

theorem zext32_lowBits (n : Nat) (w : Word) :
    zext32 (w.extractLsb' 0 n) = BitVec.ofNat 32 (uval w % 2 ^ n) := by
  apply BitVec.eq_of_toNat_eq
  rw [zext32, BitVec.toNat_setWidth, toNat_lowBits, BitVec.toNat_ofNat]

/-! ## What an accepted word decodes to (R80, R85, R105) -/

/-- The mnemonic an opcode class runs, if any: the halting opcodes stand for STOP (R103). -/
def OpClass.mnemonic? : OpClass → Option Mnemonic
  | .halt => some .stop
  | .exec m _ => some m
  | .invalid => none

/-- The decoder reads the opcode for the mnemonic, and the fields by the mnemonic alone. -/
theorem decode_eq_ok_iff {opc : OpcodeMap} {w : Word} {i : Instr} :
    decode opc w = .ok i ↔ ∃ m, (classOf opc (opcodeField w)).mnemonic? = some m ∧ instrOf m w = i := by
  unfold decode
  cases classOf opc (opcodeField w) <;> simp [OpClass.mnemonic?, instrOf, eq_comm]

theorem fields_of_decode {opc : OpcodeMap} {w : Word} {i : Instr} (h : decode opc w = .ok i) :
    i.fields = decodeFields w (typeOf i.mnemonic) := by
  obtain ⟨m, _, rfl⟩ := decode_eq_ok_iff.mp h
  rw [fields_instrOf, mnemonic_instrOf]

/-- Settles O2: `extractLsb'` is a shift and a remainder, and each type's fields are made of it. -/
theorem fieldsFollowTheLayouts : Obligations.FieldsFollowTheLayouts := by
  refine ⟨opcodeField_eq_ofNat, fun w ty => ?_, fun _ _ _ => fields_of_decode⟩
  cases ty
  case R => simp only [decodeFields, field25, field20, field15, regField_eq_ofNat]
  case I => simp only [decodeFields, field25, field20, regField_eq_ofNat, immField_eq_wrap32]
  case JR => simp only [decodeFields, field25, field20, regField_eq_ofNat]
  case JI => rw [decodeFields, field25, regField_eq_ofNat, jumpAddrField, zext32_lowBits]
  case B => rw [decodeFields, field25, regField_eq_ofNat, branchAddrField, zext32_lowBits]
  case S => rfl
  case N => rfl

/-! ## The dispatch table (R10, R85) -/

theorem classOf_of_halting {opc : OpcodeMap} {op : Opcode} (h : op = 0 ∨ op = opc.code .stop) :
    classOf opc op = .halt := by
  rw [classOf, if_pos h]

/-- R10 keeps the opcode of a mnemonic other than STOP apart from the halting ones and from every other mnemonic's. -/
theorem classOf_code {opc : OpcodeMap} (hopc : opc.Valid) {m : Mnemonic} (hm : m ≠ .stop) :
    classOf opc (opc.code m) = .exec m (typeOf m) := by
  have hmem := Mnemonic.mem_assigned m hm
  obtain ⟨hzero, hstop, hinj⟩ := hopc m hmem
  rcases classOf_cases opc (opc.code m) with ⟨hhalt, _⟩ | ⟨_, _, ⟨m', hm', hcode, hc⟩ | ⟨hnone, _⟩⟩
  · exact (hhalt.elim hzero hstop).elim
  · rw [hc, hinj m' hm' hcode.symm]
  · exact absurd rfl (hnone m hmem)

theorem classOf_of_unassigned {opc : OpcodeMap} {op : Opcode} (hzero : op ≠ 0) (hstop : op ≠ opc.code .stop)
    (hnone : ∀ m, m ≠ .stop → opc.code m ≠ op) : classOf opc op = .invalid := by
  rcases classOf_cases opc op with ⟨hhalt, _⟩ | ⟨_, _, ⟨m, hm, hcode, _⟩ | ⟨_, hc⟩⟩
  · exact (hhalt.elim hzero hstop).elim
  · exact absurd hcode (hnone m (Mnemonic.ne_stop_of_assigned hm))
  · exact hc

/-- Settles O3: R10 makes the cases of the dispatch table exclude each other. -/
theorem dispatchTableClassifiesEveryOpcode : Obligations.DispatchTableClassifiesEveryOpcode :=
  fun _ hopc => ⟨classOf_of_halting (.inl rfl), classOf_of_halting (.inr rfl), fun _ => classOf_code hopc,
    fun _ => classOf_of_unassigned⟩

/-! ## The ranges of decoded fields (R74, R76, R77) -/

/-- `Instr.wellFormed`, asked of the fields alone. -/
def DecodedFields.fit : DecodedFields → Bool
  | .i _ _ imm => ImmFits imm
  | .ji _ addr => JumpAddrFits addr
  | .b _ addr => BranchAddrFits addr
  | .r _ _ _ | .jr _ _ | .s _ | .n => true

theorem wellFormed_eq_fit (i : Instr) : i.wellFormed = i.fields.fit := by
  cases i <;> rfl

theorem immFits_sext32 (f : BitVec 16) : ImmFits (sext32 f) := by
  rw [ImmFits, sval, sext32, BitVec.toInt_signExtend_of_le (by decide)]
  exact ⟨BitVec.le_toInt f, Int.le_sub_one_of_lt BitVec.toInt_lt⟩

theorem uval_zext32_lt {n : Nat} (f : BitVec n) : uval (zext32 f) < 2 ^ n := by
  rw [uval, zext32, BitVec.toNat_setWidth]
  exact (Nat.mod_le _ _).trans_lt f.isLt

theorem fit_decodeFields (w : Word) (ty : InstrType) : (decodeFields w ty).fit = true := by
  cases ty
  case I => exact decide_eq_true (immFits_sext32 _)
  case JI => exact decide_eq_true (uval_zext32_lt _)
  case B => exact decide_eq_true (uval_zext32_lt _)
  all_goals rfl

/-- Settles O5: an extended field stays in the range of its own width. -/
theorem decodedInstructionsAreWellFormed : Obligations.DecodedInstructionsAreWellFormed := by
  intro opc w i hd
  rw [wellFormed_eq_fit, fields_of_decode hd, fit_decodeFields]

/-! ## Ignored bits (R82) -/

section Agree

variable {w w' mask : Word}

/-- Words that agree outside `mask` agree on every field that `mask` leaves out. -/
theorem extract_eq_of_agree (h : (w ^^^ w') &&& ~~~mask = 0) {lo n : Nat} (hmask : mask.extractLsb' lo n = 0) :
    w.extractLsb' lo n = w'.extractLsb' lo n := by
  apply BitVec.eq_of_getLsbD_eq
  intro k hk
  have hin := congrArg (·.getLsbD k) hmask
  have hagree := congrArg (·.getLsbD (lo + k)) h
  simp only [BitVec.getLsbD_extractLsb', hk, decide_true, Bool.true_and, BitVec.ofNat_eq_ofNat, BitVec.getLsbD_zero]
    at hin ⊢
  by_cases hlt : lo + k < 32
  · simpa only [BitVec.getLsbD_and, BitVec.getLsbD_xor, BitVec.getLsbD_not, hlt, hin, decide_true, Bool.not_false,
      Bool.and_true, BitVec.ofNat_eq_ofNat, BitVec.getLsbD_zero, bne_eq_false_iff_eq] using hagree
  · rw [BitVec.getLsbD_of_ge w _ (by omega), BitVec.getLsbD_of_ge w' _ (by omega)]

theorem regField_eq_of_agree (h : (w ^^^ w') &&& ~~~mask = 0) {lo : Nat} (hmask : mask.extractLsb' lo 5 = 0) :
    regField lo w = regField lo w' := by
  rw [regField, extract_eq_of_agree h hmask, regField]

end Agree

/-- No type ignores a bit of the opcode (R70). -/
theorem opcodeField_eq_of_agree {w w' : Word} {ty : InstrType} (h : (w ^^^ w') &&& ~~~(Machine.ignoredBits ty) = 0) :
    opcodeField w = opcodeField w' := by
  refine extract_eq_of_agree h ?_
  cases ty <;> rfl

/-- No field of a type lies over its ignored bits. -/
theorem decodeFields_eq_of_agree {w w' : Word} {ty : InstrType}
    (h : (w ^^^ w') &&& ~~~(Machine.ignoredBits ty) = 0) : decodeFields w ty = decodeFields w' ty := by
  have reg : ∀ {lo}, (Machine.ignoredBits ty).extractLsb' lo 5 = 0 → regField lo w = regField lo w' :=
    regField_eq_of_agree h
  cases ty
  case R => rw [decodeFields, field25, field20, field15, reg rfl, reg rfl, reg rfl]; rfl
  case I => rw [decodeFields, field25, field20, immField, reg rfl, reg rfl, extract_eq_of_agree h rfl]; rfl
  case JR => rw [decodeFields, field25, field20, reg rfl, reg rfl]; rfl
  case JI => rw [decodeFields, field25, jumpAddrField, reg rfl, extract_eq_of_agree h rfl]; rfl
  case B => rw [decodeFields, field25, branchAddrField, reg rfl, extract_eq_of_agree h rfl]; rfl
  case S => exact congrArg DecodedFields.s (extract_eq_of_agree h rfl)
  case N => rfl

/-- An instruction is made of its mnemonic and its type's fields, and of nothing else in the word. -/
theorem instrOf_congr {m : Mnemonic} {w w' : Word} (h : decodeFields w (typeOf m) = decodeFields w' (typeOf m)) :
    instrOf m w = instrOf m w' := by
  cases m <;> simp_all [typeOf, decodeFields, instrOf]

/-- Settles O6: the opcode and every field are read outside the ignored bits. -/
theorem ignoredBitsDoNotMatter : Obligations.IgnoredBitsDoNotMatter := by
  intro opc w w' i hd hagree
  obtain ⟨m, hm, rfl⟩ := decode_eq_ok_iff.mp hd
  rw [mnemonic_instrOf] at hagree
  rw [opcodeField_eq_of_agree hagree] at hm
  exact decode_eq_ok_iff.mpr ⟨m, hm, (instrOf_congr (decodeFields_eq_of_agree hagree)).symm⟩

/-! ## Words of the spec's vectors -/

/-- Settles O7, by running the decoder on the eight words. -/
theorem wordsOfTheSpecDecode : Obligations.WordsOfTheSpecDecode := by
  unfold Obligations.WordsOfTheSpecDecode
  decide

end Sys2Proof

/-! The execution cycle family: what a step does at each stage, that a fault is precise, and when the host matters. -/

namespace Sys2Proof.Machine

/-! ## The stages of a step (R100 to R106) -/

/-- Settles O16: fetch and decode are as given, and the increment is the 32-bit successor. -/
theorem stepRunsTheDecodedInstruction : Obligations.StepRunsTheDecodedInstruction := by
  intro s w i ⟨hr, hf⟩ hd
  refine ⟨decodedInstructionsAreWellFormed s.cfg.opc w i hd, ?_⟩
  rw [step_of_decoded hr hf hd, advancePc_eq]

/-- Raising a fault changes the run state alone (R213). -/
theorem faultsWith_raiseFault (r : FaultReason) (s : State) : FaultsWith r s (raiseFault s r) :=
  ⟨rfl, rfl, fun _ => rfl, fun _ => rfl, rfl, rfl, rfl⟩

/-- Settles O18: out of bounds the fetch answers none. -/
theorem fetchOutOfBoundsFaults : Obligations.FetchOutOfBoundsFaults := by
  intro s hr hout
  have hf : fetch s = none := fetch_eq_none.mpr (by omega)
  exact ⟨_, step_of_fetch_none hr hf, faultsWith_raiseFault _ s⟩

theorem decode_of_invalid {opc : OpcodeMap} {w : Word} (h : classOf opc (opcodeField w) = .invalid) :
    decode opc w = .error (.invalidOpcode (opcodeField w)) := by
  rw [decode, h]

/-- The reference assignment fills the opcodes below 32 (R84): a check of the 64 opcodes. -/
theorem classOf_reference_eq_invalid_iff (op : Opcode) : classOf OpcodeMap.reference op = .invalid ↔ 32 ≤ op.toNat := by
  revert op
  decide

/-- Settles O19: the decoder rejects the opcode, and the fault is raised past the word. -/
theorem unassignedOpcodeFaults : Obligations.UnassignedOpcodeFaults := by
  refine ⟨fun s w ⟨hr, hf⟩ hinvalid => ?_, classOf_reference_eq_invalid_iff⟩
  rw [← advancePc_eq]
  exact ⟨_, step_of_invalidOpcode hr hf (decode_of_invalid hinvalid), faultsWith_raiseFault _ _⟩

theorem decode_of_halting {opc : OpcodeMap} {w : Word} (h : opcodeField w = 0 ∨ opcodeField w = opc.code .stop) :
    decode opc w = .ok .stop := by
  rw [decode, classOf_of_halting h]

/-- Settles O54: STOP's one effect is `halt`, and both halting opcodes are of class halt. -/
theorem stopHalts : Obligations.StopHalts :=
  ⟨fun s => ⟨halt s, rfl, rfl, rfl, fun _ => rfl, fun _ => rfl, rfl, rfl, rfl⟩,
    fun _ _ h => decode_of_halting h.symm, fun _ => rfl⟩

/-! ## Precise faults (R108) -/

/-- An instruction that leaves a Running state Faulted did nothing but raise that fault, and no instruction raises the
fetch fault. -/
theorem Effect.of_faulted {s t : State} {i : Instr} {r : FaultReason} (h : Effect s i t) (hs : s.run = .running)
    (ht : t.run = .faulted r) : t = raiseFault s r ∧ ∀ p, r ≠ .fetchOutOfBounds p := by
  cases h
  case divByZero | diviByZero | loadFault | storeFault =>
    cases ht
    exact ⟨rfl, nofun⟩
  case halted => cases ht
  all_goals exact nomatch hs.symm.trans ht

/-- Settles O22: each of the three stages that can fault raises its fault on an otherwise unchanged state, and only the
fetch does so before the increment. -/
theorem faultsArePrecise : Obligations.FaultsArePrecise := by
  intro s t r hstep hfault
  obtain ⟨hr, ⟨_, rfl⟩ | ⟨_, op, _, _, rfl⟩ | ⟨_, _, _, _, hexec⟩⟩ := step_cases hstep
  case inl =>
    cases hfault
    obtain ⟨_, hpc, hregs, hmem, hhost⟩ := faultsWith_raiseFault (.fetchOutOfBounds s.pc) s
    exact ⟨hregs, hmem, hhost, hpc⟩
  case inr.inl =>
    cases hfault
    obtain ⟨_, hpc, hregs, hmem, hhost⟩ := faultsWith_raiseFault (.invalidOpcode op) (advancePc s)
    exact ⟨hregs, hmem, hhost, hpc.trans (advancePc_pc_eq s)⟩
  case inr.inr =>
    obtain ⟨rfl, hnotFetch⟩ := (effect_of_exec hexec).of_faulted hr hfault
    obtain ⟨_, hpc, hregs, hmem, hhost⟩ := faultsWith_raiseFault r (advancePc s)
    refine ⟨hregs, hmem, hhost, ?_⟩
    cases r
    case fetchOutOfBounds => exact absurd rfl (hnotFetch _)
    all_goals exact hpc.trans (advancePc_pc_eq s)

/-! ## When a Running state has a next state (R111, R195) -/

theorem execLoad_next (rd rs : Reg) (imm : Word) (s : State) : ∃ t, execLoad rd rs imm s = .next t := by
  rw [execLoad]
  cases loadValue s (effectiveAddress s rs imm) <;> exact ⟨_, rfl⟩

theorem execStore_next (rd rs : Reg) (imm : Word) (s : State) : ∃ t, execStore rd rs imm s = .next t := by
  cases h : memWrite s.cfg.memWords s.mem (effectiveAddress s rs imm) (readReg s rd) with
  | some m => exact ⟨_, execStore_of_written h⟩
  | none => exact ⟨_, execStore_of_refused h⟩

/-- SCALL 0 waits while the host has supplied nothing (R195). -/
theorem execScall_zero_of_no_input {s : State} (h : s.hostInput = []) : execScall 0 s = .fault .awaitingInput := by
  rw [execScall, h]
  rfl

theorem execScall_next {sel : BitVec 26} {s : State} (h : ¬ (sel = 0 ∧ s.hostInput = [])) :
    ∃ t, execScall sel s = .next t := by
  rcases execScall_cases sel s with ⟨hsel, hi, _⟩ | ⟨_, _, _, _, e⟩ | ⟨_, e⟩ | ⟨_, e⟩ | ⟨_, e⟩ | ⟨_, _, _, _, e⟩
  case inl => exact absurd ⟨hsel, hi⟩ h
  all_goals exact ⟨_, e⟩

/-- Every instruction has a next state, but SCALL 0 while the host has supplied nothing. The cases named are those that
can end in two ways; the others compute to their one next state. -/
theorem exec_next {i : Instr} {s : State} (h : ¬ (i = .scall 0 ∧ s.hostInput = [])) : ∃ t, exec i s = .next t := by
  cases i
  case scall sel => exact execScall_next fun ⟨hsel, hi⟩ => h ⟨congrArg Instr.scall hsel, hi⟩
  case store rd rs imm => exact execStore_next rd rs imm s
  case load rd rs imm => exact execLoad_next rd rs imm s
  case div | divi => exact execAlu_next .div _ _ _ s
  all_goals exact ⟨_, rfl⟩

/-- Settles O24: the faults of fetch and decode are next states, and past them the instruction decides. -/
theorem runningStepsAnswerUnlessInputIsAwaited : Obligations.RunningStepsAnswerUnlessInputIsAwaited := by
  refine fun s hr => ⟨fun hnot => ?_, fun ⟨w, ⟨_, hf⟩, hd⟩ hi => ?_⟩
  · cases hf : fetch s with
    | none => exact ⟨_, step_of_fetch_none hr hf⟩
    | some w =>
      cases hd : decode s.cfg.opc w with
      | error e => exact ⟨_, step_of_invalidOpcode hr hf hd⟩
      | ok i =>
        rw [step_of_decoded hr hf hd]
        refine exec_next fun ⟨hscall, hi⟩ => hnot ⟨?_, hi⟩
        rw [runsNext_iff hr hf, hd, hscall]
  · rw [step_of_decoded hr hf hd]
    exact execScall_zero_of_no_input (s := advancePc s) hi

/-! ## Who reads the waiting integers (R195, R202) -/

/-- An outcome whose next state, if it has one, holds the waiting integers `q`. -/
def withHostInput (q : List Word) : Result → Result
  | .next t => .next { t with hostInput := q }
  | .fault r => .fault r
  | .refused r => .refused r

theorem writeBack_withHostInput (rd : Reg) (v : Except FaultReason Word) (s : State) (q : List Word) :
    writeBack rd v { s with hostInput := q } = withHostInput q (writeBack rd v s) := by
  cases v <;> rfl

theorem execStore_withHostInput (rd rs : Reg) (imm : Word) (s : State) (q : List Word) :
    execStore rd rs imm { s with hostInput := q } = withHostInput q (execStore rd rs imm s) := by
  cases h : memWrite s.cfg.memWords s.mem (effectiveAddress s rs imm) (readReg s rd) with
  | some m =>
    rw [execStore_of_written h, execStore_of_written (s := { s with hostInput := q }) h]
    rfl
  | none =>
    rw [execStore_of_refused h, execStore_of_refused (s := { s with hostInput := q }) h]
    rfl

theorem branchIf_withHostInput (taken : Bool) (addr : Word) (s : State) (q : List Word) :
    branchIf taken addr { s with hostInput := q } = { branchIf taken addr s with hostInput := q } := by
  cases taken <;> rfl

/-- The output selectors read the I/O register, and an unrecognized one reads nothing. -/
theorem execScall_withHostInput {sel : BitVec 26} (hsel : sel ≠ 0) (s : State) (q : List Word) :
    execScall sel { s with hostInput := q } = withHostInput q (execScall sel s) := by
  rcases execScall_cases sel s with ⟨h0, _⟩ | ⟨_, _, h0, _⟩ | ⟨rfl, _⟩ | ⟨rfl, _⟩ | ⟨rfl, _⟩ | ⟨h0, h1, h2, h3, _⟩
  case inl | inr.inl => exact absurd h0 hsel
  case inr.inr.inr.inr.inr =>
    have hfour := four_le_of_unrecognized h0 h1 h2 h3
    rw [execScall_of_four_le hfour, execScall_of_four_le hfour, withHostInput]
  all_goals rfl

/-- No instruction but SCALL 0 depends on the waiting integers. The cases named are those that can end in two ways; the
others compute to the same update of both states. -/
theorem exec_withHostInput {i : Instr} (hi : i ≠ .scall 0) (s : State) (q : List Word) :
    exec i { s with hostInput := q } = withHostInput q (exec i s) := by
  cases i
  case scall sel => exact execScall_withHostInput (fun hsel => hi (congrArg Instr.scall hsel)) s q
  case store rd rs imm => exact execStore_withHostInput rd rs imm s q
  case braz rs addr => exact congrArg Host.Outcome.next (branchIf_withHostInput _ addr s q)
  case branz rs addr => exact congrArg Host.Outcome.next (branchIf_withHostInput _ addr s q)
  case div | divi | load => exact writeBack_withHostInput _ _ s q
  all_goals rfl

theorem Effect.hostInput_eq {s t : State} {i : Instr} (h : Effect s i t) (hi : i ≠ .scall 0) :
    t.hostInput = s.hostInput := by
  cases h
  case inputRead => exact absurd rfl hi
  all_goals rfl

/-- Settles O30: fetch and decode read no waiting integer, a fault takes none, and neither does the instruction. -/
theorem hostInputMattersOnlyToSelectorZero : Obligations.HostInputMattersOnlyToSelectorZero := by
  intro s t q hnot hstep
  obtain ⟨hr, ⟨hf, rfl⟩ | ⟨w, op, hf, hd, rfl⟩ | ⟨w, i, hf, hd, hexec⟩⟩ := step_cases hstep
  case inl => exact ⟨rfl, step_of_fetch_none (s := { s with hostInput := q }) hr hf⟩
  case inr.inl => exact ⟨rfl, step_of_invalidOpcode (s := { s with hostInput := q }) hr hf hd⟩
  case inr.inr =>
    have hi : i ≠ .scall 0 := fun e => hnot ((runsNext_iff hr hf).mpr (e ▸ hd))
    refine ⟨(effect_of_exec hexec).hostInput_eq hi, ?_⟩
    calc step { s with hostInput := q }
      _ = exec i { advancePc s with hostInput := q } := step_of_decoded (s := { s with hostInput := q }) hr hf hd
      _ = withHostInput q (exec i (advancePc s)) := exec_withHostInput hi (advancePc s) q
      _ = .next { t with hostInput := q } := by rw [hexec, withHostInput]

end Sys2Proof.Machine

/-! The arithmetic family: ADD, SUB, MUL and DIV in both forms, and why their low 32 bits need no signs. -/

namespace Sys2Proof.Machine

/-! ## The low 32 bits (R129) -/

theorem wrap32_uval (v : Word) : wrap32 (uval v) = v := by
  rw [wrap32, uval, BitVec.ofInt_natCast, BitVec.ofNat_toNat, BitVec.setWidth_eq]

theorem wrap32_add (m n : Int) : wrap32 (m + n) = wrap32 m + wrap32 n := BitVec.ofInt_add m n

theorem wrap32_sub (m n : Int) : wrap32 (m - n) = wrap32 m - wrap32 n := by
  rw [Int.sub_eq_add_neg, wrap32_add, BitVec.sub_eq_add_neg, wrap32, wrap32, wrap32, BitVec.ofInt_neg]

theorem wrap32_mul (m n : Int) : wrap32 (m * n) = wrap32 m * wrap32 n := BitVec.ofInt_mul m n

/-- Settles O45: `wrap32` commutes with the three operations, and takes either reading of a pattern back to it. -/
theorem lowBitsDoNotDependOnSignedness : Obligations.LowBitsDoNotDependOnSignedness := by
  intro a b
  simp only [wrap32_add, wrap32_sub, wrap32_mul, sval_wrap32, wrap32_uval, and_self]

/-! ## The ALU instructions (R107, R108, R120) -/

theorem writesOnlyReg_writeReg (rd : Reg) (v : Word) (s : State) : WritesOnlyReg rd v s (writeReg s rd v) :=
  ⟨readReg_writeReg_self s rd v, fun _ => readReg_writeReg_of_ne s v, rfl, fun _ => rfl, rfl, rfl, rfl, rfl⟩

section

variable {op : AluOp} {rd ra : Reg} {b : Operand} {s : State}

/-- Where the ALU computes a value, the instruction writes it to rd and does nothing else. -/
theorem execAlu_writes {v : Word} (h : alu op (readReg s ra) (operandValue s b) = .ok v) :
    ∃ t, execAlu op rd ra b s = .next t ∧ WritesOnlyReg rd v s t := by
  refine ⟨writeReg s rd v, ?_, writesOnlyReg_writeReg rd v s⟩
  rw [execAlu, h, writeBack]

/-- Where the ALU answers an error, the instruction raises it and does nothing else. -/
theorem execAlu_faults {r : FaultReason} (h : alu op (readReg s ra) (operandValue s b) = .error r) :
    ∃ t, execAlu op rd ra b s = .next t ∧ FaultsWith r s t := by
  refine ⟨raiseFault s r, ?_, faultsWith_raiseFault r s⟩
  rw [execAlu, h, writeBack]

end

theorem alu_div_of_zero {b : Word} (a : Word) (hb : sval b = 0) : alu .div a b = .error .divideByZero := by
  rw [alu, divide, if_pos hb]

/-- Settles O33: in both forms the ALU answers the wrapped sum, never an error. -/
theorem addWritesTheWrappedSum : Obligations.AddWritesTheWrappedSum :=
  ⟨fun rd rs1 rs2 s => exec_add rd rs1 rs2 s ▸ execAlu_writes rfl,
    fun rd rs imm s => exec_addi rd rs imm s ▸ execAlu_writes rfl,
    fun _ _ _ _ => rfl, fun _ _ _ _ => rfl, rfl, rfl⟩

/-- Settles O34: in both forms the ALU answers the wrapped difference, never an error. -/
theorem subWritesTheWrappedDifference : Obligations.SubWritesTheWrappedDifference :=
  ⟨fun rd rs1 rs2 s => exec_sub rd rs1 rs2 s ▸ execAlu_writes rfl,
    fun rd rs imm s => exec_subi rd rs imm s ▸ execAlu_writes rfl,
    fun _ _ _ _ => rfl, fun _ _ _ _ => rfl, rfl, rfl⟩

/-- Settles O35: in both forms the ALU answers the wrapped product, never an error. -/
theorem mulWritesTheWrappedProduct : Obligations.MulWritesTheWrappedProduct :=
  ⟨fun rd rs1 rs2 s => exec_mul rd rs1 rs2 s ▸ execAlu_writes rfl,
    fun rd rs imm s => exec_muli rd rs imm s ▸ execAlu_writes rfl,
    fun _ _ _ _ => rfl, fun _ _ _ _ => rfl, rfl, rfl⟩

/-- Settles O36: the divisor decides between the ALU's quotient and its one error. -/
theorem divWritesTheQuotientOrFaults : Obligations.DivWritesTheQuotientOrFaults :=
  ⟨fun rd rs1 rs2 s hb => exec_div rd rs1 rs2 s ▸ execAlu_writes (alu_div_of_ne _ hb),
    fun rd rs imm s hb => exec_divi rd rs imm s ▸ execAlu_writes (alu_div_of_ne _ hb),
    fun rd rs1 rs2 s hb => exec_div rd rs1 rs2 s ▸ execAlu_faults (alu_div_of_zero _ hb),
    fun rd rs imm s hb => exec_divi rd rs imm s ▸ execAlu_faults (alu_div_of_zero _ hb),
    fun _ _ _ _ => rfl, fun _ _ _ _ => rfl, rfl, rfl⟩

end Sys2Proof.Machine

/-! The logic and shift family: AND, OR, XOR, SHL and SHR in both forms, and the shifts bit by bit. -/

namespace Sys2Proof.Machine

/-! ## The shifts bit by bit (R140) -/

/-- An amount of 32 or more gives 0 in both readings; below that `wrap32` keeps the product's low 32 bits. -/
theorem shiftLeft_eq (a : Word) (n : Nat) : shiftLeft a n = a <<< n := by
  rw [shiftLeft]
  split
  case isTrue hn => exact (BitVec.shiftLeft_eq_zero hn).symm
  case isFalse => rw [wrap32, BitVec.ofInt_natCast, ← Nat.shiftLeft_eq, ← BitVec.shiftLeft_eq, BitVec.shiftLeft]

/-- An amount of 32 or more gives 0 in both readings; below that the quotient is already a word. -/
theorem shiftRight_eq (a : Word) (n : Nat) : shiftRight a n = a >>> n := by
  rw [shiftRight]
  split
  case isTrue hn => exact (BitVec.ushiftRight_eq_zero hn).symm
  case isFalse => rw [← Nat.shiftRight_eq_div_pow, ← BitVec.toNat_ushiftRight, wrap32_uval]

theorem getLsbD_shiftLeft (a : Word) (n : Nat) {k : Nat} (hk : k < 32) :
    (shiftLeft a n).getLsbD k = (decide (n ≤ k) && a.getLsbD (k - n)) := by
  simp only [shiftLeft_eq, BitVec.getLsbD_shiftLeft, hk, decide_true, Bool.true_and, ← decide_not, Nat.not_lt]

theorem getLsbD_shiftRight (a : Word) (n k : Nat) :
    (shiftRight a n).getLsbD k = (decide (k + n < 32) && a.getLsbD (k + n)) := by
  rw [shiftRight_eq, BitVec.getLsbD_ushiftRight, Nat.add_comm]
  by_cases hlt : k + n < 32
  · rw [decide_eq_true hlt, Bool.true_and]
  · rw [decide_eq_false hlt, Bool.false_and, BitVec.getLsbD_of_ge a _ (Nat.le_of_not_lt hlt)]

/-- Settles O47: the ALU never refuses a shift, and each bit of its answer is a bit of `a` or a zero. -/
theorem shiftsMoveBits : Obligations.ShiftsMoveBits :=
  fun a b => ⟨shiftLeft a (uval b), shiftRight a (uval b), rfl, rfl,
    fun k hk => ⟨getLsbD_shiftLeft a (uval b) hk, getLsbD_shiftRight a (uval b) k⟩⟩

/-! ## The logic and shift instructions (R141 to R150) -/

/-- Settles O37: in both forms the ALU answers the bitwise and, never an error. -/
theorem andWritesTheBitwiseAnd : Obligations.AndWritesTheBitwiseAnd :=
  ⟨fun rd rs1 rs2 s => exec_and rd rs1 rs2 s ▸ execAlu_writes rfl,
    fun rd rs imm s => exec_andi rd rs imm s ▸ execAlu_writes rfl,
    fun _ _ _ _ => rfl, fun _ _ _ _ => rfl, rfl, rfl⟩

/-- Settles O38: in both forms the ALU answers the bitwise or, never an error. -/
theorem orWritesTheBitwiseOr : Obligations.OrWritesTheBitwiseOr :=
  ⟨fun rd rs1 rs2 s => exec_or rd rs1 rs2 s ▸ execAlu_writes rfl,
    fun rd rs imm s => exec_ori rd rs imm s ▸ execAlu_writes rfl,
    fun _ _ _ _ => rfl, fun _ _ _ _ => rfl, rfl, rfl⟩

/-- Settles O39: in both forms the ALU answers the bitwise exclusive or, never an error. -/
theorem xorWritesTheBitwiseExclusiveOr : Obligations.XorWritesTheBitwiseExclusiveOr :=
  ⟨fun rd rs1 rs2 s => exec_xor rd rs1 rs2 s ▸ execAlu_writes rfl,
    fun rd rs imm s => exec_xori rd rs imm s ▸ execAlu_writes rfl,
    fun _ _ _ _ => rfl, fun _ _ _ _ => rfl, rfl, rfl⟩

/-- Settles O40: in both forms the ALU answers `shiftLeft` by the unsigned amount, never an error. -/
theorem shlShiftsLeftAndSaturates : Obligations.ShlShiftsLeftAndSaturates :=
  ⟨fun rd rs1 rs2 s => exec_shl rd rs1 rs2 s ▸ execAlu_writes rfl,
    fun rd rs imm s => exec_shli rd rs imm s ▸ execAlu_writes rfl,
    fun _ _ _ _ => rfl, fun _ _ _ _ => rfl, rfl, rfl⟩

/-- Settles O41: in both forms the ALU answers `shiftRight` by the unsigned amount, never an error. -/
theorem shrShiftsRightAndSaturates : Obligations.ShrShiftsRightAndSaturates :=
  ⟨fun rd rs1 rs2 s => exec_shr rd rs1 rs2 s ▸ execAlu_writes rfl,
    fun rd rs imm s => exec_shri rd rs imm s ▸ execAlu_writes rfl,
    fun _ _ _ _ => rfl, fun _ _ _ _ => rfl, rfl, rfl⟩

end Sys2Proof.Machine

/-! The comparison family: SLT, SLE and SEQ in both forms, whose answer is the word 1 or 0. -/

namespace Sys2Proof.Machine

/-! ## The ALU's answers (R160) -/

theorem boolWord_decide (p : Prop) [Decidable p] : boolWord (decide p) = if p then 1 else 0 := by
  rw [boolWord]
  exact if_congr decide_eq_true_iff rfl rfl

theorem alu_slt (a b : Word) : alu .slt a b = .ok (if sval a < sval b then 1 else 0) := by
  rw [alu, lessThan, boolWord_decide]

theorem alu_sle (a b : Word) : alu .sle a b = .ok (if sval a ≤ sval b then 1 else 0) := by
  rw [alu, lessOrEqual, boolWord_decide]

theorem alu_seq (a b : Word) : alu .seq a b = .ok (if a = b then 1 else 0) := by
  rw [alu, equal, boolWord_decide]

/-! ## The comparison instructions (R161 to R166) -/

/-- Settles O42: in both forms the ALU answers the signed "less than", never an error. -/
theorem sltComparesSigned : Obligations.SltComparesSigned :=
  ⟨fun rd rs1 rs2 s => exec_slt rd rs1 rs2 s ▸ execAlu_writes (alu_slt _ _),
    fun rd rs imm s => exec_slti rd rs imm s ▸ execAlu_writes (alu_slt _ _),
    fun _ _ _ _ => rfl, fun _ _ _ _ => rfl, rfl, rfl⟩

/-- Settles O43: in both forms the ALU answers the signed "at most", never an error. -/
theorem sleComparesSigned : Obligations.SleComparesSigned :=
  ⟨fun rd rs1 rs2 s => exec_sle rd rs1 rs2 s ▸ execAlu_writes (alu_sle _ _),
    fun rd rs imm s => exec_slei rd rs imm s ▸ execAlu_writes (alu_sle _ _),
    fun _ _ _ _ => rfl, fun _ _ _ _ => rfl, rfl, rfl⟩

/-- Settles O44: in both forms the ALU answers the equality of the patterns, never an error. -/
theorem seqComparesPatterns : Obligations.SeqComparesPatterns :=
  ⟨fun rd rs1 rs2 s => exec_seq rd rs1 rs2 s ▸ execAlu_writes (alu_seq _ _),
    fun rd rs imm s => exec_seqi rd rs imm s ▸ execAlu_writes (alu_seq _ _),
    fun _ _ _ _ => rfl, fun _ _ _ _ => rfl, rfl, rfl⟩

end Sys2Proof.Machine

/-! The load and store family: the address read exactly or wrapped, the one word each accesses, and their faults. -/

namespace Sys2Proof.Machine

/-! ## Sums past the signed range (R173) -/

theorem wrap32_sub_two_pow (n : Int) : wrap32 (n - 2 ^ 32) = wrap32 n := by
  rw [eq_wrap32_iff, uval_wrap32, Int.sub_emod_right]

theorem wrap32_add_two_pow (n : Int) : wrap32 (n + 2 ^ 32) = wrap32 n := by
  rw [eq_wrap32_iff, uval_wrap32, Int.add_emod_right]

/-- Up to one turn above the signed range, wrapping takes one turn off. -/
theorem sval_wrap32_of_ge {n : Int} (hlo : 2 ^ 31 ≤ n) (hhi : n ≤ 2 ^ 31 - 1 + 2 ^ 32) :
    sval (wrap32 n) = n - 2 ^ 32 := by
  rw [← wrap32_sub_two_pow]
  exact sval_wrap32_of_fits (by omega) (by omega)

/-- Up to one turn below the signed range, wrapping puts one turn on. -/
theorem sval_wrap32_of_lt {n : Int} (hlo : -2 ^ 31 - 2 ^ 32 ≤ n) (hhi : n < -2 ^ 31) :
    sval (wrap32 n) = n + 2 ^ 32 := by
  rw [← wrap32_add_two_pow]
  exact sval_wrap32_of_fits (by omega) (by omega)

theorem address_bounds (base : Word) {imm : Word} (himm : ImmFits imm) :
    -2 ^ 31 - 2 ^ 15 ≤ sval base + sval imm ∧ sval base + sval imm ≤ 2 ^ 31 - 1 + 2 ^ 15 - 1 := by
  obtain ⟨hlo, hhi⟩ := sval_bounds base
  obtain ⟨hilo, hihi⟩ := himm
  omega

/-- Outside the signed range neither reading of an address is in bounds: the exact one lies past an end of it, and the
wrapped one is negative or at least 2^31 - 2^15. -/
theorem inBounds_wrap32_iff {n : Nat} {ea : Int} (hn : n ≤ 2 ^ 31 - 2 ^ 15) (hlo : -2 ^ 31 - 2 ^ 15 ≤ ea)
    (hhi : ea ≤ 2 ^ 31 - 1 + 2 ^ 15 - 1) : inBounds n ea ↔ inBounds n (sval (wrap32 ea)) := by
  by_cases hge : 2 ^ 31 ≤ ea
  · rw [sval_wrap32_of_ge hge (by omega)]
    omega
  by_cases hlt : ea < -2 ^ 31
  · rw [sval_wrap32_of_lt (by omega) hlt]
    omega
  · rw [sval_wrap32_of_fits (by omega) (by omega)]

/-! ## The two accesses (R171, R172) -/

theorem memRead_of_inBounds {n : Nat} {ea : Int} (m : Memory) (h : inBounds n ea) : ∃ v, memRead n m ea = some v :=
  Option.isSome_iff_exists.mp (memRead_isSome_iff.mpr h)

theorem exec_load (rd rs : Reg) (imm : Word) (s : State) : exec (.load rd rs imm) s = execLoad rd rs imm s := rfl

section

variable {rd rs : Reg} {imm : Word} {s : State}

theorem exec_load_of_read {v : Word} (h : memRead s.cfg.memWords s.mem (effectiveAddress s rs imm) = some v) :
    exec (.load rd rs imm) s = .next (writeReg s rd v) := by
  rw [exec_load, execLoad, loadValue, h, writeBack]

theorem exec_load_of_outOfBounds (h : ¬ inBounds s.cfg.memWords (effectiveAddress s rs imm)) :
    exec (.load rd rs imm) s = .next (raiseFault s (.loadOutOfBounds (effectiveAddress s rs imm))) :=
  execLoad_of_refused (memRead_eq_none.mpr h)

theorem exec_store_of_outOfBounds (h : ¬ inBounds s.cfg.memWords (effectiveAddress s rs imm)) :
    exec (.store rd rs imm) s = .next (raiseFault s (.storeOutOfBounds (effectiveAddress s rs imm))) :=
  execStore_of_refused (memWrite_eq_none.mpr h)

end

/-- Settles O10: a 16-bit immediate carries a sum less than one turn past the signed range, and each access faults with
the exact sum. -/
theorem boundsVerdictIsTheSameWrapped : Obligations.BoundsVerdictIsTheSameWrapped := by
  intro base imm n himm
  obtain ⟨hlo, hhi⟩ := address_bounds base himm
  refine ⟨⟨hlo, hhi⟩, fun hge => ?above, fun hlt => ?below, fun hn => inBounds_wrap32_iff hn hlo hhi, ?faults⟩
  case above =>
    rw [sval_wrap32_of_ge hge (by omega)]
    omega
  case below =>
    rw [sval_wrap32_of_lt (by omega) hlt]
    omega
  case faults =>
    rintro rd rs s rfl hout
    exact ⟨exec_load_of_outOfBounds hout, exec_store_of_outOfBounds hout⟩

/-- Settles O48: in bounds the read answers the word that LOAD writes to rd. -/
theorem loadReadsTheWordOrFaults : Obligations.LoadReadsTheWordOrFaults := by
  refine ⟨fun _ _ _ => rfl, fun rd rs imm s hin => ?_, fun rd rs imm s hout => ?_, fun _ _ _ _ => rfl, rfl⟩
  · obtain ⟨v, hread⟩ := memRead_of_inBounds s.mem hin
    exact ⟨v, _, hread, exec_load_of_read hread, writesOnlyReg_writeReg rd v s⟩
  · exact ⟨_, exec_load_of_outOfBounds (by omega), faultsWith_raiseFault _ s⟩

/-- Settles O49: in bounds the write is accepted; it reads back and changes no byte outside its word. -/
theorem storeWritesTheWordOrFaults : Obligations.StoreWritesTheWordOrFaults := by
  refine ⟨fun rd rs imm s hwf hin => ?_, fun rd rs imm s hout => ?_, fun _ _ _ => rfl, fun _ _ _ _ => rfl, rfl⟩
  · obtain ⟨m, hm⟩ := memWrite_of_inBounds s.mem (readReg s rd) hin
    have hframe : ∀ a : Nat, ((a / 4 : Nat) : Int) ≠ effectiveAddress s rs imm → m.readByte a = s.mem.readByte a :=
      fun a hne => by_contra fun hchanged => hne (word_of_byte_changed_by_memWrite hm hwf hchanged)
    exact ⟨setMem s m, execStore_of_written hm, memRead_memWrite_self hm hwf, hframe, fun _ => rfl, rfl, rfl, rfl, rfl,
      rfl⟩
  · exact ⟨_, exec_store_of_outOfBounds (by omega), faultsWith_raiseFault _ s⟩

/-- Settles O32: the LOAD reads the memory that the STORE wrote, at the address it wrote. -/
theorem storeThenLoadReturnsTheValue : Obligations.StoreThenLoadReturnsTheValue := by
  intro s t rd rs rd' rs' imm imm' hs hin hstore haddr
  obtain ⟨_, hwf, _⟩ := hs
  obtain ⟨m, hm⟩ := memWrite_of_inBounds s.mem (readReg s rd) hin
  cases hstore.symm.trans (execStore_of_written hm)
  have hread : memRead s.cfg.memWords m (effectiveAddress (setMem s m) rs' imm') = some (readReg s rd) := by
    rw [haddr]
    exact memRead_memWrite_self hm hwf
  exact ⟨_, exec_load_of_read hread, writesOnlyReg_writeReg rd' _ _⟩

end Sys2Proof.Machine

/-! The control transfer family: the two jumps with a link and the two branches, and the fetch fault at a target outside
memory. -/

namespace Sys2Proof.Machine

/-! ## The next state of each transfer (R180) -/

/-- The target is read after the link is written, so with rd = ra it is the link (R181). -/
theorem exec_jmpr (rd ra : Reg) (s : State) :
    exec (.jmpr rd ra) s = .next (setPc (writeReg s rd s.pc) (if rd = ra then s.pc else readReg s ra)) := by
  have htarget : readReg (writeReg s rd s.pc) ra = if rd = ra then s.pc else readReg s ra :=
    (readReg_writeReg s rd ra s.pc).trans (if_congr eq_comm rfl rfl)
  rw [← htarget]
  rfl

theorem exec_jmpi (rd : Reg) (addr : Word) (s : State) :
    exec (.jmpi rd addr) s = .next (setPc (writeReg s rd s.pc) addr) := rfl

/-- Taken or not, a branch can be read as one write of pc. -/
theorem branchIf_eq_setPc (taken : Bool) (addr : Word) (s : State) :
    branchIf taken addr s = setPc s (if taken then addr else s.pc) := by
  cases taken <;> rfl

theorem exec_braz (rs : Reg) (addr : Word) (s : State) :
    exec (.braz rs addr) s = .next (setPc s (if readReg s rs = 0 then addr else s.pc)) :=
  congrArg Host.Outcome.next <| (branchIf_eq_setPc _ addr s).trans <|
    congrArg (setPc s) (if_congr (isZero_iff _) rfl rfl)

theorem exec_branz (rs : Reg) (addr : Word) (s : State) :
    exec (.branz rs addr) s = .next (setPc s (if readReg s rs ≠ 0 then addr else s.pc)) := by
  have htaken : (!isZero (readReg s rs)) = true ↔ readReg s rs ≠ 0 := by
    rw [Bool.not_eq_true', ← Bool.not_eq_true, isZero_iff]
  exact congrArg Host.Outcome.next <| (branchIf_eq_setPc _ addr s).trans <|
    congrArg (setPc s) (if_congr htaken rfl rfl)

/-- No transfer checks its target; the next fetch does (R102, R186). -/
theorem step_setPc_of_outOfBounds (s : State) (p : Word) (hr : s.run = .running)
    (hout : sval p < 0 ∨ (s.cfg.memWords : Int) ≤ sval p) :
    ∃ u, step (setPc s p) = .next u ∧ FaultsWith (.fetchOutOfBounds p) (setPc s p) u :=
  fetchOutOfBoundsFaults (setPc s p) hr hout

/-! ## The control transfer instructions (R181 to R184) -/

/-- Settles O50: JMPR is one register write and one pc write, and the next fetch is checked against memory. -/
theorem jmprLinksThenJumps : Obligations.JmprLinksThenJumps :=
  ⟨fun rd ra s => ⟨_, exec_jmpr rd ra s, readReg_writeReg_self s rd s.pc, rfl,
      fun _ => readReg_writeReg_of_ne s s.pc, fun _ => rfl, rfl, ⟨rfl, rfl, rfl⟩,
      step_setPc_of_outOfBounds (writeReg s rd s.pc) _⟩,
    fun _ _ _ => rfl, rfl⟩

/-- Settles O51: JMPI is one register write and one pc write, and the next fetch is checked against memory. -/
theorem jmpiLinksThenJumps : Obligations.JmpiLinksThenJumps :=
  ⟨fun rd addr s => ⟨_, exec_jmpi rd addr s, readReg_writeReg_self s rd s.pc, rfl,
      fun _ => readReg_writeReg_of_ne s s.pc, fun _ => rfl, rfl, ⟨rfl, rfl, rfl⟩,
      step_setPc_of_outOfBounds (writeReg s rd s.pc) _⟩,
    fun _ _ _ => rfl, rfl⟩

/-- Settles O52: BRAZ is one pc write, and the next fetch is checked against memory. -/
theorem brazBranchesOnZero : Obligations.BrazBranchesOnZero :=
  ⟨fun rs addr s => ⟨_, exec_braz rs addr s, rfl, fun _ => rfl, fun _ => rfl, rfl, ⟨rfl, rfl, rfl⟩,
      step_setPc_of_outOfBounds s _⟩,
    fun _ _ _ => rfl, rfl⟩

/-- Settles O53: BRANZ is one pc write, and the next fetch is checked against memory. -/
theorem branzBranchesOnNonzero : Obligations.BranzBranchesOnNonzero :=
  ⟨fun rs addr s => ⟨_, exec_branz rs addr s, rfl, fun _ => rfl, fun _ => rfl, rfl, ⟨rfl, rfl, rfl⟩,
      step_setPc_of_outOfBounds s _⟩,
    fun _ _ _ => rfl, rfl⟩

end Sys2Proof.Machine

/-! The syscall family: the handler's interface, and what SCALL does for each selector. -/

namespace Sys2Proof.Machine

/-! ## The handler (R190, R191) -/

theorem syscall_zero_none (s : State) : syscall 0 s none = none := rfl

theorem syscall_zero_some (s : State) (v : Word) :
    syscall 0 s (some v) = some (writeReg (emit (emit s .prompt) (.input v)) s.cfg.ioReg v) := rfl

/-- Every selector but 0 has an answer, which differs at most in events appended to the console. -/
theorem syscall_of_ne_zero {sel : BitVec 26} (h : sel ≠ 0) (s : State) (hostIn : Option Word) :
    ∃ es, syscall sel s hostIn = some { s with console := s.console ++ es } := by
  simp only [syscall, if_neg h]
  split
  · exact ⟨_, rfl⟩
  split
  · exact ⟨_, rfl⟩
  split
  · exact ⟨_, rfl⟩
  · exact ⟨[], by rw [List.append_nil]⟩

/-- Settles O59: selector 0 waits or writes the I/O register after two events; any other only appends events. -/
theorem syscallTouchesOnlyIoRegisterAndConsole : Obligations.SyscallTouchesOnlyIoRegisterAndConsole := by
  intro sel s hostIn
  by_cases h0 : sel = 0
  · subst h0
    cases hostIn with
    | none =>
      rw [syscall_zero_none]
      exact ⟨iff_of_true rfl ⟨rfl, rfl⟩, nofun⟩
    | some v =>
      rw [syscall_zero_some]
      refine ⟨iff_of_false nofun nofun, ?_⟩
      rintro _ ⟨⟩
      exact ⟨fun _ => readReg_writeReg_of_ne _ v, rfl, rfl, rfl, rfl, rfl, _, List.append_assoc ..⟩
  · obtain ⟨es, hanswer⟩ := syscall_of_ne_zero h0 s hostIn
    rw [hanswer]
    refine ⟨iff_of_false nofun fun ⟨hsel, _⟩ => h0 hsel, ?_⟩
    rintro _ ⟨⟩
    exact ⟨fun _ _ => rfl, rfl, rfl, rfl, rfl, rfl, es, rfl⟩

/-! ## SCALL (R194 to R199) -/

theorem exec_scall (sel : BitVec 26) (s : State) : exec (.scall sel) s = execScall sel s := rfl

/-- SCALL 0 takes the host's oldest waiting integer (R194). -/
theorem exec_scall_zero {s : State} {v : Word} {rest : List Word} (h : s.hostInput = v :: rest) :
    exec (.scall 0) s =
      .next { writeReg (emit (emit s .prompt) (.input v)) s.cfg.ioReg v with hostInput := rest } := by
  rw [exec_scall, execScall, h, List.head?_cons, syscall_zero_some]
  simp [dropInput, h]

/-- Settles O55: SCALL 0 is two events, one register write and the removal of the oldest integer. -/
theorem scallZeroReadsAnInteger : Obligations.ScallZeroReadsAnInteger :=
  fun s v _ hinput => ⟨_, exec_scall_zero hinput, readReg_writeReg_self _ s.cfg.ioReg v, List.append_assoc .., rfl,
    fun _ => readReg_writeReg_of_ne _ v, rfl, fun _ => rfl, rfl, rfl⟩

/-- Settles O56: the supplied integer is the only one waiting, so SCALL 0 reads it. -/
theorem scallZeroWaitsForTheHost : Obligations.ScallZeroWaitsForTheHost := by
  intro s v hempty
  have hinput : (supplyInput s v).hostInput = [v] := by rw [supplyInput_hostInput, hempty, List.nil_append]
  refine ⟨execScall_zero_of_no_input hempty, ?_, _, exec_scall_zero hinput, readReg_writeReg_self _ _ v, rfl⟩
  rw [supplyInput, hempty, List.nil_append]

/-- The character's code is the register's pattern without its upper 25 bits (R198). -/
theorem extractLsb'_seven (v : Word) : v.extractLsb' 0 7 = BitVec.ofNat 7 (uval v) := rfl

theorem exec_scall_one (s : State) : exec (.scall 1) s = .next (emit s (.labeled (readReg s s.cfg.ioReg))) := rfl

theorem exec_scall_two (s : State) : exec (.scall 2) s = .next (emit s (.decimal (readReg s s.cfg.ioReg))) := rfl

theorem exec_scall_three (s : State) :
    exec (.scall 3) s = .next (emit s (.char (BitVec.ofNat 7 (uval (readReg s s.cfg.ioReg))))) := by
  rw [← extractLsb'_seven]
  rfl

/-- Settles O57: each output selector is one `emit`, which changes the console alone. -/
theorem scallOutputSelectorsEmitOneEvent : Obligations.ScallOutputSelectorsEmitOneEvent := by
  intro s p hp
  have hexec : exec (.scall p.1) s = .next (emit s p.2) := by
    simp only [List.mem_cons, List.not_mem_nil, or_false] at hp
    obtain rfl | rfl | rfl := hp
    · exact exec_scall_one s
    · exact exec_scall_two s
    · exact exec_scall_three s
  exact ⟨_, hexec, emit_console s p.2, fun _ => rfl, rfl, fun _ => rfl, rfl, rfl, rfl⟩

/-- Settles O58: none of the four recognized selectors is 4 or more. -/
theorem scallUnrecognizedSelectorDoesNothing : Obligations.ScallUnrecognizedSelectorDoesNothing :=
  fun s _ hsel => execScall_of_four_le hsel s

end Sys2Proof.Machine

/-! The exceptions and reset family: the cause of each fault, the exit status, and which resets are accepted. -/

namespace Sys2Proof.Machine

/-! ## The causes of faults (R211) -/

/-- What makes a Running state raise a fault in its next step: one case per check that a stage of the step makes. -/
inductive FaultCause (s : State) : FaultReason → Prop where
  | fetch (h : ¬ inBounds s.cfg.memWords (sval s.pc)) : FaultCause s (.fetchOutOfBounds s.pc)
  | opcode (w : Word) (hw : fetches s w) (h : classOf s.cfg.opc (opcodeField w) = .invalid) :
      FaultCause s (.invalidOpcode (opcodeField w))
  | load (rd rs : Reg) (imm : Word) (hi : runsNext s (.load rd rs imm))
      (h : ¬ inBounds s.cfg.memWords (effectiveAddress s rs imm)) :
      FaultCause s (.loadOutOfBounds (effectiveAddress s rs imm))
  | store (rd rs : Reg) (imm : Word) (hi : runsNext s (.store rd rs imm))
      (h : ¬ inBounds s.cfg.memWords (effectiveAddress s rs imm)) :
      FaultCause s (.storeOutOfBounds (effectiveAddress s rs imm))
  | div (rd rs1 rs2 : Reg) (hi : runsNext s (.div rd rs1 rs2)) (h : readReg s rs2 = 0) : FaultCause s .divideByZero
  | divi (rd rs : Reg) (hi : runsNext s (.divi rd rs 0)) : FaultCause s .divideByZero

/-- The decoder rejects only a word whose opcode is of class invalid, and it reports that opcode. -/
theorem class_of_decode_error {opc : OpcodeMap} {w : Word} {op : Opcode}
    (h : decode opc w = .error (.invalidOpcode op)) : op = opcodeField w ∧ classOf opc (opcodeField w) = .invalid := by
  unfold decode at h
  split at h
  case h_3 hinvalid =>
    cases h
    exact ⟨rfl, hinvalid⟩
  all_goals cases h

theorem step_of_runsNext {s : State} {i : Instr} (h : runsNext s i) : step s = exec i (advancePc s) := by
  obtain ⟨w, ⟨hr, hf⟩, hd⟩ := h
  exact step_of_decoded hr hf hd

/-- Of the instructions only LOAD, STORE, DIV and DIVI leave a Running state Faulted. -/
theorem Effect.faultCause {s t : State} {i : Instr} {r : FaultReason} (h : Effect (advancePc s) i t)
    (hi : runsNext s i) (ht : t.run = .faulted r) : FaultCause s r := by
  have hr : s.run = .running := by
    obtain ⟨_, ⟨hr, _⟩, _⟩ := hi
    exact hr
  cases h
  case divByZero rd rs1 rs2 hzero => cases ht; exact .div rd rs1 rs2 hi hzero
  case diviByZero rd rs => cases ht; exact .divi rd rs hi
  case loadFault rd rs imm hout => cases ht; exact .load rd rs imm hi hout
  case storeFault rd rs imm hout => cases ht; exact .store rd rs imm hi hout
  case halted => cases ht
  all_goals exact nomatch hr.symm.trans ht

theorem faultCause_of_step {s t : State} {r : FaultReason} (hstep : step s = .next t) (ht : t.run = .faulted r) :
    FaultCause s r := by
  obtain ⟨hr, ⟨hf, rfl⟩ | ⟨w, op, hf, hd, rfl⟩ | ⟨w, i, hf, hd, hexec⟩⟩ := step_cases hstep
  case inl =>
    cases ht
    exact .fetch (fetch_eq_none.mp hf)
  case inr.inl =>
    cases ht
    obtain ⟨rfl, hinvalid⟩ := class_of_decode_error hd
    exact .opcode w ⟨hr, hf⟩ hinvalid
  case inr.inr => exact (effect_of_exec hexec).faultCause ⟨w, ⟨hr, hf⟩, hd⟩ ht

theorem FaultCause.step_faults {s : State} {r : FaultReason} (h : FaultCause s r) (hr : s.run = .running) :
    ∃ t, step s = .next t ∧ t.run = .faulted r := by
  obtain ⟨_, _, hdiv, hdivi, _⟩ := divWritesTheQuotientOrFaults
  cases h
  case fetch hout => exact ⟨_, step_of_fetch_none hr (fetch_eq_none.mpr hout), rfl⟩
  case opcode w hw hinvalid =>
    exact ⟨_, step_of_invalidOpcode hr (fetch_of_fetches hw) (decode_of_invalid hinvalid), rfl⟩
  case load rd rs imm hi hout =>
    exact ⟨_, (step_of_runsNext hi).trans (exec_load_of_outOfBounds (s := advancePc s) hout), rfl⟩
  case store rd rs imm hi hout =>
    exact ⟨_, (step_of_runsNext hi).trans (exec_store_of_outOfBounds (s := advancePc s) hout), rfl⟩
  case div rd rs1 rs2 hi hzero =>
    obtain ⟨t, hexec, hrun, _⟩ := hdiv rd rs1 rs2 (advancePc s) ((sval_eq_zero_iff _).mpr hzero)
    exact ⟨t, (step_of_runsNext hi).trans hexec, hrun⟩
  case divi rd rs hi =>
    obtain ⟨t, hexec, hrun, _⟩ := hdivi rd rs 0 (advancePc s) rfl
    exact ⟨t, (step_of_runsNext hi).trans hexec, hrun⟩

/-- A step ends Faulted exactly from a Running state with a cause for that fault. -/
theorem step_faults_iff {s : State} {r : FaultReason} :
    (∃ t, step s = .next t ∧ t.run = .faulted r) ↔ s.run = .running ∧ FaultCause s r := by
  refine ⟨fun ⟨t, hstep, ht⟩ => ?_, fun ⟨hr, hcause⟩ => hcause.step_faults hr⟩
  obtain ⟨hr, _⟩ := step_cases hstep
  exact ⟨hr, faultCause_of_step hstep ht⟩

theorem not_inBounds_iff {n : Nat} {ea : Int} : ¬ inBounds n ea ↔ ea < 0 ∨ (n : Int) ≤ ea := by
  omega

/-- Settles O23: each reason's cause in the statement is the one `FaultCause` gives it. -/
theorem faultsRaisedExactlyForTheirCauses : Obligations.FaultsRaisedExactlyForTheirCauses := by
  refine ⟨fun s r => ?_, fun _ _ _ => ⟨rfl, rfl, rfl, rfl, rfl⟩⟩
  rw [step_faults_iff]
  refine and_congr_right fun _ => ?_
  cases r
  case invalidOpcode op =>
    constructor
    · rintro ⟨⟩
      case opcode w hw hinvalid => exact ⟨w, hw, rfl, hinvalid⟩
    · rintro ⟨w, hw, rfl, hinvalid⟩
      exact .opcode w hw hinvalid
  case loadOutOfBounds ea =>
    constructor
    · rintro ⟨⟩
      case load rd rs imm hi hout => exact ⟨rd, rs, imm, hi, rfl, not_inBounds_iff.mp hout⟩
    · rintro ⟨rd, rs, imm, hi, rfl, hout⟩
      exact .load rd rs imm hi (not_inBounds_iff.mpr hout)
  case storeOutOfBounds ea =>
    constructor
    · rintro ⟨⟩
      case store rd rs imm hi hout => exact ⟨rd, rs, imm, hi, rfl, not_inBounds_iff.mp hout⟩
    · rintro ⟨rd, rs, imm, hi, rfl, hout⟩
      exact .store rd rs imm hi (not_inBounds_iff.mpr hout)
  case divideByZero =>
    constructor
    · rintro ⟨⟩
      case div rd rs1 rs2 hi hzero => exact .inl ⟨rd, rs1, rs2, hi, hzero⟩
      case divi rd rs hi => exact .inr ⟨rd, rs, 0, hi, rfl⟩
    · rintro (⟨rd, rs1, rs2, hi, hzero⟩ | ⟨rd, rs, _, hi, rfl⟩)
      · exact .div rd rs1 rs2 hi hzero
      · exact .divi rd rs hi
  case fetchOutOfBounds p =>
    constructor
    · rintro ⟨⟩
      case fetch hout => exact ⟨rfl, not_inBounds_iff.mp hout⟩
    · rintro ⟨rfl, hout⟩
      exact .fetch (not_inBounds_iff.mpr hout)

/-! ## The exit status (R219) -/

/-- Settles O60: a fault's status is the parameter EXIT_FAULT, which R9 keeps from 0. -/
theorem exitStatusOfTerminalStates : Obligations.ExitStatusOfTerminalStates := by
  intro p ⟨_, hnonzero⟩
  exact ⟨rfl, rfl, fun _ => ⟨rfl, fun hzero => hnonzero (Option.some.inj hzero)⟩⟩

/-! ## Accepted and refused resets (R37, R240) -/

/-- An image that fits leaves the empty memory canonical and inside its bound. -/
theorem inv_resetState {cfg : Config} {img : List Word} (hvalid : cfg.Valid) (hfits : img.length ≤ cfg.memWords) :
    (resetState cfg img).Inv := by
  obtain ⟨hwf, hwithin, _⟩ := writeImage_spec img [] 0 cfg.memWords Memory.wf_nil nofun (by omega)
  exact ⟨hvalid, hwf, hwithin⟩

theorem boot_of_tooLong {cfg : Config} {img : List Word} (hvalid : cfg.Valid) (hlong : cfg.memWords < img.length) :
    boot cfg img = .refused .imageTooLong := by
  rw [boot, if_neg (not_not.mpr hvalid), if_pos hlong]

theorem boot_of_invalid {cfg : Config} (img : List Word) (hinvalid : ¬ cfg.Valid) :
    boot cfg img = .refused .invalidConfig := by
  rw [boot, if_pos hinvalid]

/-- Settles O14: an accepted reset gives `resetState`, and each of the two tests of `boot` refuses by its own name. -/
theorem everyResetMeetsTheInvariantOrIsRefused : Obligations.EveryResetMeetsTheInvariantOrIsRefused := by
  refine fun cfg img => ⟨fun s hboot => ?_, boot_of_tooLong, boot_of_invalid img⟩
  obtain ⟨hvalid, hfits, rfl⟩ := boot_eq_next_iff.mp hboot
  exact ⟨inv_resetState hvalid hfits, rfl⟩

/-! ## The first step after reset (R103, R242) -/

/-- The first fetch reads the image's first word, or the 0 past an empty image. -/
theorem fetch_resetState {cfg : Config} {img : List Word} (hvalid : cfg.Valid) (hfits : img.length ≤ cfg.memWords) :
    fetch (resetState cfg img) = some (img.getD 0 0) := by
  obtain ⟨hpos, _⟩ := hvalid
  have hread := memRead_resetState hfits hpos
  cases img <;> exact hread

theorem step_of_halting {s : State} {w : Word} (hw : fetches s w)
    (h : opcodeField w = 0 ∨ opcodeField w = s.cfg.opc.code .stop) : step s = .next (halt (advancePc s)) :=
  step_of_runsNext ⟨w, hw, decode_of_halting h⟩

/-- Settles O15: the first word fetched halts, whether it is the 0 of empty memory or the one STOP word. -/
theorem emptyImageHaltsInOneStep : Obligations.EmptyImageHaltsInOneStep := by
  intro cfg img s hboot himg
  obtain ⟨hvalid, hfits, rfl⟩ := boot_eq_next_iff.mp hboot
  have hhalting : opcodeField (img.getD 0 0) = 0 ∨ opcodeField (img.getD 0 0) = cfg.opc.code .stop := by
    obtain rfl | ⟨w, rfl, hw⟩ := himg
    · exact .inl rfl
    · exact hw
  exact ⟨_, step_of_halting ⟨rfl, fetch_resetState hvalid hfits⟩ hhalting, rfl, rfl, readReg_resetState cfg img, rfl⟩

end Sys2Proof.Machine
